-- ==== Sys2Proof/Word.lean ====
section
/-! DEFINITION. The plain word types of the frame engine (00_scope.md R9 to R11): an 8-bit byte, the 16-bit and
32-bit unsigned fields of the frame formats, a one-bit status flag, and a byte sequence. -/

namespace Sys2Proof

/-- A byte: 8 bits, values 0..255 (R9). -/
abbrev Byte := BitVec 8

/-- An unsigned 16-bit field (R11, R45). -/
abbrev U16 := BitVec 16

/-- An unsigned 32-bit field (R11, R45). -/
abbrev U32 := BitVec 32

/-- One status bit of a reading, 0 or 1 (R139). -/
abbrev Flag := BitVec 1

/-- A byte sequence, offset 0 first (R10). -/
abbrev Bytes := List Byte

end Sys2Proof
end

