-- ==== Sys2Proof/Config.lean ====
section
/-! DEFINITION. The fixed constants of R7 and the configuration tables of R8 and R29 (10_state.md section 4): the
engine's control state, bound once before the first transaction and read-only afterwards. The tables are plain
data; State holds one bound `Configuration`. -/

namespace Sys2Proof

/-! ### Fixed constants (R7) -/

/-- First marker byte, the letter Z (R7; the ASCII value is general knowledge G1). -/
def sync1 : Byte := 0x5A

/-- Second marker byte, the letter I (R7; general knowledge G1). -/
def sync2 : Byte := 0x49

/-- Header length: sync1, sync2, sourceDest, lenLSB, lenMSB (R7). -/
def hdr : Nat := 5

/-- Largest buffer length, in bytes, kept without a marker (R7). -/
def desyncThreshold : Nat := 64

/-- Bytes at the start of every inbound payload: RFLevel, FloorNoise, RFQuality, Protocol, infoType (R7). -/
def rfPrefixLen : Nat := 5

/-- Number of infoType layouts (R7). -/
def nTypes : Nat := 16

/-- Outbound sourceDest byte (R7). -/
def outSourceDest : Byte := 0x01

/-- Outbound payload length (R7). -/
def outLen : Nat := 12

/-- Outbound frame length, HDR + OUT_LEN (R7). -/
def outFrameLen : Nat := 17

/-- Protocol code of rts and somfyrts (R7). -/
def rtsCode : Byte := 11

/-- Dim byte of the RTS token "2" (R7). -/
def rtsMyDim : Byte := 4

/-! ### LAYOUT: payload offsets per infoType (R70, R71)

Each record holds exactly the field names R71 gives its type; a value is the payload offset of that field. Widths and
signedness are fixed by R71 and are not part of the table (90_conflicts.md C9). -/

/-- Types 0, 1 and 15: subtype and a Scheme A id. -/
structure LayoutPlain where
  st : Nat
  id : Nat
  deriving DecidableEq, Repr

/-- Types 2, 3, 10, 11, 12 and 14: subtype, a Scheme A id and the qualifier. -/
structure LayoutQualified where
  st : Nat
  id : Nat
  qualifier : Nat
  deriving DecidableEq, Repr

/-- Type 4, Oregon thermo/hygro. -/
structure LayoutThermo where
  st : Nat
  idPHY : Nat
  idChannel : Nat
  qualifier : Nat
  temp : Nat
  humidity : Nat
  deriving DecidableEq, Repr

/-- Type 5, Oregon pressure. -/
structure LayoutPressure where
  st : Nat
  idPHY : Nat
  idChannel : Nat
  qualifier : Nat
  temp : Nat
  humidity : Nat
  pressure : Nat
  deriving DecidableEq, Repr

/-- Type 6, Oregon wind. -/
structure LayoutWind where
  st : Nat
  idPHY : Nat
  idChannel : Nat
  qualifier : Nat
  speed : Nat
  direction : Nat
  deriving DecidableEq, Repr

/-- Type 7, Oregon UV. -/
structure LayoutUV where
  st : Nat
  idPHY : Nat
  idChannel : Nat
  qualifier : Nat
  light : Nat
  deriving DecidableEq, Repr

/-- Type 8, OWL power. -/
structure LayoutOwl where
  st : Nat
  idPHY : Nat
  idChannel : Nat
  qualifier : Nat
  energy : Nat
  power : Nat
  pi1 : Nat
  pi2 : Nat
  pi3 : Nat
  deriving DecidableEq, Repr

/-- Type 9, Oregon rain. -/
structure LayoutRain where
  st : Nat
  idPHY : Nat
  idChannel : Nat
  qualifier : Nat
  totalRain : Nat
  rain : Nat
  deriving DecidableEq, Repr

/-- Type 13, metering (Linky-class). -/
structure LayoutMetering where
  st : Nat
  id : Nat
  contractType : Nat
  setpoint : Nat
  cnt1 : Nat
  cnt2 : Nat
  apparentPower : Nat
  qualifier : Nat
  deriving DecidableEq, Repr

/-- The table LAYOUT[0..15] (R29, R70). -/
structure LayoutTable where
  t0 : LayoutPlain
  t1 : LayoutPlain
  t2 : LayoutQualified
  t3 : LayoutQualified
  t4 : LayoutThermo
  t5 : LayoutPressure
  t6 : LayoutWind
  t7 : LayoutUV
  t8 : LayoutOwl
  t9 : LayoutRain
  t10 : LayoutQualified
  t11 : LayoutQualified
  t12 : LayoutQualified
  t13 : LayoutMetering
  t14 : LayoutQualified
  t15 : LayoutPlain
  deriving DecidableEq, Repr

/-! ### FLAGBIT: the bit of the qualifier each status flag is (R29, R71, R139) -/

/-- The four status bits of type 2. -/
structure VisonicBits where
  tamper : Fin 16
  alarm : Fin 16
  lowbatt : Fin 16
  alive : Fin 16
  deriving DecidableEq, Repr

/-- The five status bits of types 10 and 11. -/
structure X2dBits where
  tamper : Fin 16
  anomaly : Fin 16
  lowbatt : Fin 16
  testassoc : Fin 16
  domestic : Fin 16
  deriving DecidableEq, Repr

/-- The table FLAGBIT; for types 4 to 9 the one entry is lowbatt. -/
structure FlagTable where
  t2 : VisonicBits
  t4 : Fin 16
  t5 : Fin 16
  t6 : Fin 16
  t7 : Fin 16
  t8 : Fin 16
  t9 : Fin 16
  t10 : X2dBits
  t11 : X2dBits
  deriving DecidableEq, Repr

/-! ### The encoder's tables (R29) -/

/-- The bindable entries of ACTION_CODE. ON is not a field: its code 0x01 is fixed by the source (R75). -/
structure ActionCodes where
  off : Byte
  dim : Byte
  assoc : Byte
  deriving DecidableEq, Repr

/-- HA_DIM: the dim byte of each of the eight HA-electric tokens (R207). -/
structure HaDimTable where
  autoLow : Byte
  ecoLow : Byte
  confortLow : Byte
  auto : Byte
  eco : Byte
  confort : Byte
  stop : Byte
  horsGel : Byte
  deriving DecidableEq, Repr

/-- The bound configuration (R8, R29). `protoExtra` holds what a binding adds to the six PROTO_CODE entries that
belong to every binding (R205). `none` in `bufCap` and `maxBatch` is the value ∞; `none` in `haProto` is the
spec's own value none. -/
structure Configuration where
  layout : LayoutTable
  flagBit : FlagTable
  protoExtra : List (String × Byte)
  actionCode : ActionCodes
  haProto : Option Byte
  haDim : HaDimTable
  strict : Bool
  bufCap : Option Nat
  maxBatch : Option Nat
  deriving DecidableEq, Repr

/-! ### The values at power on -/

/-- ACTION_CODE's default (R75): OFF 0, DIM 2, ASSOC 6. -/
def ActionCodes.initial : ActionCodes := { off := 0x00, dim := 0x02, assoc := 0x06 }

/-- HA_DIM has no value in the spec. DESIGN CHOICE (log 2, unsafe): zero for every token, a legal code. -/
def HaDimTable.initial : HaDimTable :=
  { autoLow := 0, ecoLow := 0, confortLow := 0, auto := 0, eco := 0, confort := 0, stop := 0, horsGel := 0 }

/-- LAYOUT has no value in the spec. DESIGN CHOICE (log 1, unsafe): the least legal offsets, 5 for every field, and
6 for the id of type 1, which must differ from that of type 0 (R68, R142). -/
def LayoutTable.initial : LayoutTable :=
  let plain : LayoutPlain := { st := 5, id := 5 }
  let qualified : LayoutQualified := { st := 5, id := 5, qualifier := 5 }
  { t0 := plain
    t1 := { plain with id := 6 }
    t2 := qualified
    t3 := qualified
    t4 := { st := 5, idPHY := 5, idChannel := 5, qualifier := 5, temp := 5, humidity := 5 }
    t5 := { st := 5, idPHY := 5, idChannel := 5, qualifier := 5, temp := 5, humidity := 5, pressure := 5 }
    t6 := { st := 5, idPHY := 5, idChannel := 5, qualifier := 5, speed := 5, direction := 5 }
    t7 := { st := 5, idPHY := 5, idChannel := 5, qualifier := 5, light := 5 }
    t8 := { st := 5, idPHY := 5, idChannel := 5, qualifier := 5, energy := 5, power := 5, pi1 := 5, pi2 := 5, pi3 := 5 }
    t9 := { st := 5, idPHY := 5, idChannel := 5, qualifier := 5, totalRain := 5, rain := 5 }
    t10 := qualified
    t11 := qualified
    t12 := qualified
    t13 := { st := 5, id := 5, contractType := 5, setpoint := 5, cnt1 := 5, cnt2 := 5, apparentPower := 5,
             qualifier := 5 }
    t14 := qualified
    t15 := plain }

/-- FLAGBIT has no value in the spec. DESIGN CHOICE (log 2, unsafe): bit 0 for every flag (R139 lets flags share a
bit). -/
def FlagTable.initial : FlagTable :=
  let x2d : X2dBits := { tamper := 0, anomaly := 0, lowbatt := 0, testassoc := 0, domestic := 0 }
  { t2 := { tamper := 0, alarm := 0, lowbatt := 0, alive := 0 }
    t4 := 0, t5 := 0, t6 := 0, t7 := 0, t8 := 0, t9 := 0, t10 := x2d, t11 := x2d }

/-- The configuration of a machine whose host has bound nothing else: the spec's defaults (R8, R29) and, for the OPEN
tables, the values named above. -/
def Configuration.initial : Configuration :=
  { layout := LayoutTable.initial
    flagBit := FlagTable.initial
    protoExtra := []
    actionCode := ActionCodes.initial
    haProto := none
    haDim := HaDimTable.initial
    strict := false
    bufCap := none
    maxBatch := none }

end Sys2Proof
end

