-- ==== Sys2Proof/Syntax.lean ====
section
/-! DEFINITION. What the host hands the engine (30_encoding.md R79) and the instructions of spec/opcode_table.json:
one constructor of `Instr` per row of the table. -/

namespace Sys2Proof

/-- The operands of ENCODE (R200): the registry's results for one actuator, the command token and the optional dim. -/
structure Command where
  proto : Option String
  token : String
  idCode : Option String
  dimIn : Option Byte
  deriving DecidableEq, Repr

/-- The first four bytes of an inbound payload (R62); infoType, the fifth, is the row's opcode. -/
structure RfPrefix where
  rfLevel : Byte
  floorNoise : Byte
  rfQuality : Byte
  protocol : Byte
  deriving DecidableEq, Repr

/-- The operand bytes of a row selected by the infoType byte: everything an inbound frame holds beside the marker, the
length field (which counts these bytes) and infoType (R60, R62). -/
structure InFrame where
  sourceDest : Byte
  rf : RfPrefix
  fields : Bytes
  deriving DecidableEq, Repr

/-- The instructions: one constructor per row of spec/opcode_table.json, in the table's order. The rows of format
INFOTYPE stand under op DECODE and hold the frame's other bytes; DEC_UNKNOWN has four rows, each with the bits of
infoType its mask leaves free. The rows of format "CMD17 action byte" stand under op ENCODE and hold the command. -/
inductive Instr where
  | reset (conn : Nat)
  | push (conn : Nat) (batch : Bytes)
  | decode (frame : Bytes)
  | encode (command : Command)
  | decT0 (f : InFrame)
  | decT1 (f : InFrame)
  | decT2 (f : InFrame)
  | decT3 (f : InFrame)
  | decT4 (f : InFrame)
  | decT5 (f : InFrame)
  | decT6 (f : InFrame)
  | decT7 (f : InFrame)
  | decT8 (f : InFrame)
  | decT9 (f : InFrame)
  | decT10 (f : InFrame)
  | decT11 (f : InFrame)
  | decT12 (f : InFrame)
  | decT13 (f : InFrame)
  | decT14 (f : InFrame)
  | decT15 (f : InFrame)
  | decUnknown10 (low : BitVec 4) (f : InFrame)
  | decUnknown20 (low : BitVec 5) (f : InFrame)
  | decUnknown40 (low : BitVec 6) (f : InFrame)
  | decUnknown80 (low : BitVec 7) (f : InFrame)
  | encFrame (protocolCode action : Byte) (deviceId : U32) (dimValue : Byte)
  | encOff (command : Command)
  | encOn (command : Command)
  | encDim (command : Command)
  | encAssoc (command : Command)
  deriving DecidableEq, Repr

/-- The operand that stands beside the op select at the request interface (R79): nothing for RESET, a byte sequence for
PUSH and DECODE, a command for ENCODE. -/
inductive Operand where
  | none
  | bytes (s : Bytes)
  | command (c : Command)
  deriving DecidableEq, Repr

/-- What the engine fetches. `txn` is a transaction of R79: the connection it is issued on (R30), the 2-bit op select
and the operand. `cmd17` is the 17-byte word of the row ENC_FRAME, the serialiser step of ENCODE issued on its own.
DESIGN CHOICE (log 4, unsafe): the spec gives the host no such request; it is here so that the row can be fetched. -/
inductive Request where
  | txn (conn : Nat) (op : BitVec 2) (operand : Operand)
  | cmd17 (word : Bytes)
  deriving DecidableEq, Repr

/-- Why a request is no instruction. -/
inductive DecodeError where
  /-- The operand is not of the kind R79 gives the op. -/
  | operandMismatch (op : BitVec 2)
  /-- The word of a `cmd17` request is not of the form of R65 and R66. -/
  | notCommandFrame
  /-- Its protocol code is above 16, which R76 and R214 exclude. -/
  | protocolCodeRange (pc : Byte)
  deriving DecidableEq, Repr

end Sys2Proof
end

