-- ==== Sys2Proof/Machine/Bytes.lean ====
section
/-! DEFINITION. Reading and writing byte sequences: the read primitive `rdLE` of R12, little-endian values (R41), the
inbound frame's bytes (R60 to R63) and the outbound frame's bytes (R65, R214). -/

namespace Sys2Proof.Machine

/-- The byte at offset `i`, written S[i] in R9. Outside the sequence it answers 0; every rule that reads checks the
length first, so no reading depends on that value (R135: no field is read outside P). -/
def byteAt (s : Bytes) (i : Nat) : Byte := s.getD i 0

/-- `rdLE S o n` of R12: the n bytes from offset o, the lowest offset least significant. -/
def rdLE (s : Bytes) (o : Nat) : Nat → Nat
  | 0 => 0
  | n + 1 => (byteAt s o).toNat + 256 * rdLE s (o + 1) n

/-- An unsigned 16-bit field (R45). -/
def rd16 (s : Bytes) (o : Nat) : U16 := BitVec.ofNat 16 (rdLE s o 2)

/-- An unsigned 32-bit field (R45). -/
def rd32 (s : Bytes) (o : Nat) : U32 := BitVec.ofNat 32 (rdLE s o 4)

/-- The slice S[a : b] of R10, empty when a ≥ b. -/
def slice (s : Bytes) (a b : Nat) : Bytes := (s.drop a).take (b - a)

/-- The payload length a frame declares at offsets 3 and 4 (R61). -/
def declaredLen (f : Bytes) : Nat := rdLE f 3 2

/-- The payload P of a frame: its bytes from offset 5 on (R40). -/
def payloadOf (f : Bytes) : Bytes := f.drop hdr

/-- RFLevel as the source reads it: int8, in dB (R62). No rule uses it (R132). -/
def rfLevelDb (rf : RfPrefix) : Int := rf.rfLevel.toInt

/-- FloorNoise as the source reads it: int8, in dB (R62). No rule uses it (R132). -/
def floorNoiseDb (rf : RfPrefix) : Int := rf.floorNoise.toInt

/-- The payload of an inbound frame whose infoType is `t` (R62). -/
def inPayload (t : Byte) (f : InFrame) : Bytes :=
  f.rf.rfLevel :: f.rf.floorNoise :: f.rf.rfQuality :: f.rf.protocol :: t :: f.fields

/-- The bytes of an inbound frame whose infoType is `t`: the header of R60 with the payload's length, low byte first,
and the payload. -/
def inFrameBytes (t : Byte) (f : InFrame) : Bytes :=
  let len := rfPrefixLen + f.fields.length
  sync1 :: sync2 :: f.sourceDest :: BitVec.ofNat 8 len :: BitVec.ofNat 8 (len / 256) :: inPayload t f

/-- The infoType byte of a frame and the frame's other bytes, where the frame has an infoType (R63): it is at least 10
bytes long, begins with the marker and is exactly 5 + len bytes (R61, R131). None for any other byte sequence. -/
def discriminant (frame : Bytes) : Option (Byte × InFrame) :=
  match frame with
  | s1 :: s2 :: sd :: lenLSB :: lenMSB :: lvl :: noise :: qual :: proto :: t :: fields =>
    if s1 = sync1 ∧ s2 = sync2 ∧ rfPrefixLen + fields.length = lenLSB.toNat + 256 * lenMSB.toNat then
      some (t, { sourceDest := sd
                 rf := { rfLevel := lvl, floorNoise := noise, rfQuality := qual, protocol := proto }
                 fields := fields })
    else none
  | _ => none

/-- ASSEMBLE of R214: the 17 bytes of an outbound command frame. -/
def assemble (pc ac : Byte) (id : U32) (dv : Byte) : Bytes :=
  [sync1, sync2, outSourceDest, 0x0C, 0x00,
   0x00, 0x00,
   pc, ac,
   id.extractLsb' 0 8, id.extractLsb' 8 8, id.extractLsb' 16 8, id.extractLsb' 24 8,
   dv,
   0x00, 0x00, 0x00]

end Sys2Proof.Machine
end

