-- ==== Sys2Proof/Machine/Flags.lean ====
section
/-! DEFINITION. Flag computation. The engine has no condition codes (R22); its flags are the status bits of a reading
(R139). The sticky mark FAULT of R25 is a field of an instance, set in Machine/Ops.lean. -/

namespace Sys2Proof.Machine

/-- `flag(g) = (val(qualifier) >> FLAGBIT[t][g]) & 1` (R139). -/
def flagOf (qualifier : U16) (bit : Fin 16) : Flag := (qualifier >>> bit.val).setWidth 1

end Sys2Proof.Machine
end

