-- ==== Sys2Proof/Machine/Operands.lean ====
section
/-! DEFINITION. The operands of the decoder (fields of a layout, ids, MINLEN: R68 to R72, R136 to R138) and of the
encoder (protocol, action, dim byte, device id: R202 to R212). All are functions of the operand and of the bound
configuration alone (R27, R28). -/

namespace Sys2Proof.Machine

/-! ### Decoder operands -/

/-- MINLEN over the fields of one layout, each given as its offset and its width in bytes (R72): the largest end of a
field, and at least the RF prefix. -/
def minLen (spans : List (Nat × Nat)) : Nat :=
  spans.foldr (fun f m => max (f.1 + f.2) m) rfPrefixLen

/-- The fields of types 0, 1 and 15 (R71). -/
def spansPlain (l : LayoutPlain) : List (Nat × Nat) := [(l.st, 2), (l.id, 4)]

/-- The fields of types 2, 3, 10, 11, 12 and 14 (R71). -/
def spansQualified (l : LayoutQualified) : List (Nat × Nat) := [(l.st, 2), (l.id, 4), (l.qualifier, 2)]

/-- The fields of type 4 (R71). -/
def spansThermo (l : LayoutThermo) : List (Nat × Nat) :=
  [(l.st, 2), (l.idPHY, 2), (l.idChannel, 2), (l.qualifier, 2), (l.temp, 2), (l.humidity, 2)]

/-- The fields of type 5 (R71). -/
def spansPressure (l : LayoutPressure) : List (Nat × Nat) :=
  [(l.st, 2), (l.idPHY, 2), (l.idChannel, 2), (l.qualifier, 2), (l.temp, 2), (l.humidity, 2), (l.pressure, 2)]

/-- The fields of type 6 (R71). -/
def spansWind (l : LayoutWind) : List (Nat × Nat) :=
  [(l.st, 2), (l.idPHY, 2), (l.idChannel, 2), (l.qualifier, 2), (l.speed, 2), (l.direction, 2)]

/-- The fields of type 7 (R71). -/
def spansUV (l : LayoutUV) : List (Nat × Nat) :=
  [(l.st, 2), (l.idPHY, 2), (l.idChannel, 2), (l.qualifier, 2), (l.light, 2)]

/-- The fields of type 8 (R71). -/
def spansOwl (l : LayoutOwl) : List (Nat × Nat) :=
  [(l.st, 2), (l.idPHY, 2), (l.idChannel, 2), (l.qualifier, 2), (l.energy, 2), (l.power, 2), (l.pi1, 2), (l.pi2, 2),
   (l.pi3, 2)]

/-- The fields of type 9 (R71). -/
def spansRain (l : LayoutRain) : List (Nat × Nat) :=
  [(l.st, 2), (l.idPHY, 2), (l.idChannel, 2), (l.qualifier, 2), (l.totalRain, 2), (l.rain, 2)]

/-- The fields of type 13 (R71); its two counters are 32 bits wide. -/
def spansMetering (l : LayoutMetering) : List (Nat × Nat) :=
  [(l.st, 2), (l.id, 4), (l.contractType, 2), (l.setpoint, 2), (l.cnt1, 4), (l.cnt2, 4), (l.apparentPower, 2),
   (l.qualifier, 2)]

/-- The fields of LAYOUT[t], each with its payload offset and its width in bytes (R70, R71). -/
def spansOf (l : LayoutTable) (t : Fin 16) : List (Nat × Nat) :=
  match t.val with
  | 0 => spansPlain l.t0
  | 1 => spansPlain l.t1
  | 2 => spansQualified l.t2
  | 3 => spansQualified l.t3
  | 4 => spansThermo l.t4
  | 5 => spansPressure l.t5
  | 6 => spansWind l.t6
  | 7 => spansUV l.t7
  | 8 => spansOwl l.t8
  | 9 => spansRain l.t9
  | 10 => spansQualified l.t10
  | 11 => spansQualified l.t11
  | 12 => spansQualified l.t12
  | 13 => spansMetering l.t13
  | 14 => spansQualified l.t14
  | _ => spansPlain l.t15

/-- MINLEN(t) of R72 under the bound LAYOUT. -/
def minLenOf (cfg : Configuration) (t : Fin 16) : Nat := minLen (spansOf cfg.layout t)

/-- Scheme A id (R68): one 32-bit little-endian field. -/
def idA (p : Bytes) (off : Nat) : U32 := rd32 p off

/-- Scheme B id (R69): `(idPHY << 16) | idChannel` of two 16-bit words. -/
def idB (p : Bytes) (offPHY offChannel : Nat) : U32 :=
  ((rd16 p offPHY).setWidth 32 <<< 16) ||| (rd16 p offChannel).setWidth 32

/-- `val(f)` of a signed 16-bit field (R138): `sext_32` of the raw word. Only temp is read so. -/
def valSigned (p : Bytes) (off : Nat) : Int := ((rd16 p off).signExtend 32).toInt

/-! ### Encoder operands: the protocol (R202, R205) -/

/-- The six PROTO_CODE entries that belong to every binding (R205). -/
def fixedProtoCodes : List (String × Byte) :=
  [("visonic433", 1), ("chacon", 3), ("dio", 3), ("rts", 11), ("somfyrts", 11), ("edisio", 16)]

/-- `PROTO_CODE[n]` as a partial map: the six fixed entries, then what the binding adds. -/
def protoLookup (cfg : Configuration) (n : String) : Option Byte :=
  (fixedProtoCodes ++ cfg.protoExtra).lookup n

/-- `PROTOCODE(proto)` of R202: 0 is unresolved. -/
def protoCode (cfg : Configuration) (proto : Option String) : Byte :=
  match proto with
  | none => 0
  | some n => (protoLookup cfg n).getD 0

/-! ### Encoder operands: the action (R75, R203, R204) -/

/-- The four actions of R75. -/
inductive Action where
  | off
  | on
  | dim
  | assoc
  deriving DecidableEq, Repr

/-- The eight HA-electric tokens of R77. -/
inductive HaToken where
  | autoLow
  | ecoLow
  | confortLow
  | auto
  | eco
  | confort
  | stop
  | horsGel
  deriving DecidableEq, Repr

/-- The HA token a string is, by exact, case-sensitive equality (R14, R77). -/
def haToken (tok : String) : Option HaToken :=
  if tok = "AutoLow" then some .autoLow
  else if tok = "EcoLow" then some .ecoLow
  else if tok = "ConfortLow" then some .confortLow
  else if tok = "Auto" then some .auto
  else if tok = "Eco" then some .eco
  else if tok = "Confort" then some .confort
  else if tok = "Stop" then some .stop
  else if tok = "HorsGel" then some .horsGel
  else none

/-- The action of an HA token (R204): the three Low modes are OFF, the five others ON. -/
def haAction (t : HaToken) : Action :=
  match t with
  | .autoLow | .ecoLow | .confortLow => .off
  | .auto | .eco | .confort | .stop | .horsGel => .on

/-- The generic tokens of R77 and R203. -/
def genericAction (tok : String) : Option Action :=
  if tok = "0" then some .off
  else if tok = "1" then some .on
  else if tok = "2" then some .dim
  else if tok = "6" then some .assoc
  else none

/-- `ACTION(pc, token)` of R203 and R204, as the action that is selected: the HA mapping replaces the generic one
exactly when HA_PROTO is bound to this protocol code. -/
def actionOf (cfg : Configuration) (pc : Byte) (tok : String) : Option Action :=
  if cfg.haProto = some pc then (haToken tok).map haAction else genericAction tok

/-- `ACTION_CODE[a]` (R75): ON is 0x01, fixed by the source. -/
def actionCode (cfg : Configuration) (a : Action) : Byte :=
  match a with
  | .off => cfg.actionCode.off
  | .on => 0x01
  | .dim => cfg.actionCode.dim
  | .assoc => cfg.actionCode.assoc

/-- The action a command selects, with its protocol resolved first (R201). -/
def commandAction (cfg : Configuration) (c : Command) : Option Action :=
  actionOf cfg (protoCode cfg c.proto) c.token

/-! ### Encoder operands: the dim byte (R206 to R208) -/

/-- `HA_DIM[token]` (R207). -/
def haDimOf (d : HaDimTable) (t : HaToken) : Byte :=
  match t with
  | .autoLow => d.autoLow
  | .ecoLow => d.ecoLow
  | .confortLow => d.confortLow
  | .auto => d.auto
  | .eco => d.eco
  | .confort => d.confort
  | .stop => d.stop
  | .horsGel => d.horsGel

/-- `DIM(pc, token, dimIn)`: the first of the RTS rule R206, the HA rule R207 and the plain rule R208 that applies. -/
def dimByte (cfg : Configuration) (pc : Byte) (tok : String) (dimIn : Option Byte) : Byte :=
  if pc = rtsCode then (if tok = "2" then rtsMyDim else 0)
  else if cfg.haProto = some pc then
    match haToken tok with
    | some t => haDimOf cfg.haDim t
    | none => dimIn.getD 0
  else dimIn.getD 0

/-! ### Encoder operands: the device id (R78, R209 to R212) -/

/-- An ASCII decimal digit, the D of R78. -/
def isDigit (c : Char) : Bool := 48 ≤ c.toNat && c.toNat ≤ 57

/-- An uppercase ASCII letter, the L of R78. -/
def isLetter (c : Char) : Bool := 65 ≤ c.toNat && c.toNat ≤ 90

/-- The decimal value of D+, one or more digits (R78); none for any other characters. Leading zeros are allowed. -/
def decimal (cs : List Char) : Option Nat :=
  if cs ≠ [] ∧ cs.all isDigit then some (cs.foldl (fun v c => 10 * v + (c.toNat - 48)) 0) else none

/-- `LETTERID(L, N)` of R210: `((L − 'A') · 16 + N − 1) mod 2^32`. -/
def letterId (l : Char) (n : Nat) : U32 := BitVec.ofNat 32 ((l.toNat - 65) * 16 + n - 1)

/-- R209 on the characters of a code: the letter form with N ≥ 1, else the raw form with V ≤ 2^32 − 1, else
unresolved. -/
def deviceIdOf (cs : List Char) : Option U32 :=
  match cs with
  | [] => none
  | l :: ds =>
    if isLetter l then
      match decimal ds with
      | some n => if 1 ≤ n then some (letterId l n) else none
      | none => none
    else
      match decimal (l :: ds) with
      | some v => if v ≤ 4294967295 then some (BitVec.ofNat 32 v) else none
      | none => none

/-- `DEVID(idCode)` of R209. -/
def deviceId (idCode : Option String) : Option U32 :=
  match idCode with
  | none => none
  | some s => deviceIdOf s.toList

end Sys2Proof.Machine
end

