-- ==== Sys2Proof/WellFormed.lean ====
section
/-! DEFINITION. When a term of `Instr` is an instruction the engine can fetch under a bound configuration. The rows of
the opcode table nest: a DECODE of a frame that has an infoType is one of the DEC rows, and an ENCODE whose token
selects an action is one of the four action rows, so the rows DECODE and ENCODE keep the other operands. -/

namespace Sys2Proof

/-- The frame's payload length fits the 16-bit length field (R61). -/
def InFrame.fits (f : InFrame) : Bool := rfPrefixLen + f.fields.length ≤ 65535

/-- A well-formed instruction under `cfg`: a frame that fits its length field for a DEC row (R61), a frame with no
infoType for DECODE (R63, R130), a command whose token selects the row's action for an ENC action row (R216 to R219)
and no action for ENCODE, and a protocol code of 0..16 for ENC_FRAME (R214). -/
def Instr.wellFormed (cfg : Configuration) (i : Instr) : Bool :=
  match i with
  | .reset _ => true
  | .push _ _ => true
  | .decode frame => (Machine.discriminant frame).isNone
  | .encode c => Machine.commandAction cfg c = none
  | .decT0 f => f.fits
  | .decT1 f => f.fits
  | .decT2 f => f.fits
  | .decT3 f => f.fits
  | .decT4 f => f.fits
  | .decT5 f => f.fits
  | .decT6 f => f.fits
  | .decT7 f => f.fits
  | .decT8 f => f.fits
  | .decT9 f => f.fits
  | .decT10 f => f.fits
  | .decT11 f => f.fits
  | .decT12 f => f.fits
  | .decT13 f => f.fits
  | .decT14 f => f.fits
  | .decT15 f => f.fits
  | .decUnknown10 _ f => f.fits
  | .decUnknown20 _ f => f.fits
  | .decUnknown40 _ f => f.fits
  | .decUnknown80 _ f => f.fits
  | .encFrame pc _ _ _ => pc.toNat ≤ 16
  | .encOff c => Machine.commandAction cfg c = some .off
  | .encOn c => Machine.commandAction cfg c = some .on
  | .encDim c => Machine.commandAction cfg c = some .dim
  | .encAssoc c => Machine.commandAction cfg c = some .assoc

end Sys2Proof
end

