-- ==== Sys2Proof/Decode.lean ====
section
/-! DEFINITION. From requests to instructions and back. `decode` is total: every request is one instruction or is
rejected by name. The op select picks RESET, PUSH, DECODE or ENCODE (R79); under DECODE the infoType byte picks the DEC
row (R73, R74), under ENCODE the token's action picks the ENC action row (R203, R204, R216 to R219). `encode` is the
request of an instruction. At the end stands the reading of one word of spec/opcode_table.json. -/

namespace Sys2Proof

open Sys2Proof.Machine

/-! ### The discriminant map (R73, R74) -/

/-- The row the infoType byte selects (R73): DEC_T0 to DEC_T15, and for 0x10 to 0xFF the one of the four DEC_UNKNOWN
rows whose mask and match the byte meets. -/
def selectInfoType (t : Byte) (f : InFrame) : Instr :=
  match t.toNat with
  | 0 => .decT0 f
  | 1 => .decT1 f
  | 2 => .decT2 f
  | 3 => .decT3 f
  | 4 => .decT4 f
  | 5 => .decT5 f
  | 6 => .decT6 f
  | 7 => .decT7 f
  | 8 => .decT8 f
  | 9 => .decT9 f
  | 10 => .decT10 f
  | 11 => .decT11 f
  | 12 => .decT12 f
  | 13 => .decT13 f
  | 14 => .decT14 f
  | 15 => .decT15 f
  | _ =>
    if t &&& 0xF0 = 0x10 then .decUnknown10 (t.setWidth 4) f
    else if t &&& 0xE0 = 0x20 then .decUnknown20 (t.setWidth 5) f
    else if t &&& 0xC0 = 0x40 then .decUnknown40 (t.setWidth 6) f
    else .decUnknown80 (t.setWidth 7) f

/-- The row a command selects under ENCODE: the action row of its action, or ENCODE itself where no action is
selected. -/
def selectCommand (cfg : Configuration) (c : Command) : Instr :=
  match commandAction cfg c with
  | some .off => .encOff c
  | some .on => .encOn c
  | some .dim => .encDim c
  | some .assoc => .encAssoc c
  | none => .encode c

/-- The instruction of a 17-byte command frame word (R65, R66): its ten constant bytes, offsets 0..6 and 14..16, are
checked, and the protocol code must be 0..16 (R214). DEDUCED (log 27): R66 counts 13 constant bytes, but the offsets it
lists, its bit pattern and R65 give ten. -/
def decodeCommandFrame (word : Bytes) : Except DecodeError Instr :=
  match word with
  | [s1, s2, sd, l0, l1, ft, cl, pc, ac, d0, d1, d2, d3, dv, bu, qu, re] =>
    if s1 = 0x5A ∧ s2 = 0x49 ∧ sd = 0x01 ∧ l0 = 0x0C ∧ l1 = 0x00 ∧ ft = 0x00 ∧ cl = 0x00 ∧
        bu = 0x00 ∧ qu = 0x00 ∧ re = 0x00 then
      if pc.toNat ≤ 16 then .ok (.encFrame pc ac (d3 ++ d2 ++ d1 ++ d0) dv)
      else .error (.protocolCodeRange pc)
    else .error .notCommandFrame
  | _ => .error .notCommandFrame

/-- The instruction of a request, or the name of what is wrong with it (R79). -/
def decode (cfg : Configuration) (r : Request) : Except DecodeError Instr :=
  match r with
  | .txn conn op operand =>
    match op.toNat, operand with
    | 0, .none => .ok (.reset conn)
    | 1, .bytes s => .ok (.push conn s)
    | 2, .bytes s =>
      match discriminant s with
      | some (t, f) => .ok (selectInfoType t f)
      | none => .ok (.decode s)
    | 3, .command c => .ok (selectCommand cfg c)
    | _, _ => .error (.operandMismatch op)
  | .cmd17 word => decodeCommandFrame word

/-! ### The encoder -/

/-- The infoType byte of a DEC row (R73, R74); none for the other rows. -/
def infoTypeOf (i : Instr) : Option Byte :=
  match i with
  | .decT0 _ => some 0x00
  | .decT1 _ => some 0x01
  | .decT2 _ => some 0x02
  | .decT3 _ => some 0x03
  | .decT4 _ => some 0x04
  | .decT5 _ => some 0x05
  | .decT6 _ => some 0x06
  | .decT7 _ => some 0x07
  | .decT8 _ => some 0x08
  | .decT9 _ => some 0x09
  | .decT10 _ => some 0x0A
  | .decT11 _ => some 0x0B
  | .decT12 _ => some 0x0C
  | .decT13 _ => some 0x0D
  | .decT14 _ => some 0x0E
  | .decT15 _ => some 0x0F
  | .decUnknown10 low _ => some (0x1#4 ++ low)
  | .decUnknown20 low _ => some (0x1#3 ++ low)
  | .decUnknown40 low _ => some (0x1#2 ++ low)
  | .decUnknown80 low _ => some (0x1#1 ++ low)
  | .reset _ | .push _ _ | .decode _ | .encode _ | .encFrame _ _ _ _ | .encOff _ | .encOn _ | .encDim _
  | .encAssoc _ => none

/-- A DECODE transaction of the frame with this infoType (R60, R62, R79). -/
def decodeRequest (t : Byte) (f : InFrame) : Request := .txn 0 0b10 (.bytes (inFrameBytes t f))

/-- An ENCODE transaction of this command (R79). -/
def encodeRequest (c : Command) : Request := .txn 0 0b11 (.command c)

/-- The request of an instruction. DECODE and ENCODE belong to no connection (R30); they are written on connection 0. -/
def encode (i : Instr) : Request :=
  match i with
  | .reset conn => .txn conn 0b00 .none
  | .push conn s => .txn conn 0b01 (.bytes s)
  | .decode frame => .txn 0 0b10 (.bytes frame)
  | .encode c => encodeRequest c
  | .decT0 f => decodeRequest 0x00 f
  | .decT1 f => decodeRequest 0x01 f
  | .decT2 f => decodeRequest 0x02 f
  | .decT3 f => decodeRequest 0x03 f
  | .decT4 f => decodeRequest 0x04 f
  | .decT5 f => decodeRequest 0x05 f
  | .decT6 f => decodeRequest 0x06 f
  | .decT7 f => decodeRequest 0x07 f
  | .decT8 f => decodeRequest 0x08 f
  | .decT9 f => decodeRequest 0x09 f
  | .decT10 f => decodeRequest 0x0A f
  | .decT11 f => decodeRequest 0x0B f
  | .decT12 f => decodeRequest 0x0C f
  | .decT13 f => decodeRequest 0x0D f
  | .decT14 f => decodeRequest 0x0E f
  | .decT15 f => decodeRequest 0x0F f
  | .decUnknown10 low f => decodeRequest (0x1#4 ++ low) f
  | .decUnknown20 low f => decodeRequest (0x1#3 ++ low) f
  | .decUnknown40 low f => decodeRequest (0x1#2 ++ low) f
  | .decUnknown80 low f => decodeRequest (0x1#1 ++ low) f
  | .encFrame pc ac id dv => .cmd17 (assemble pc ac id dv)
  | .encOff c => encodeRequest c
  | .encOn c => encodeRequest c
  | .encDim c => encodeRequest c
  | .encAssoc c => encodeRequest c

/-! ### The INFOTYPE rows of spec/opcode_table.json, as the table gives them -/

/-- The 20 rows of format INFOTYPE: the mask and the match of frame byte 9, in the table's order. -/
def infoTypeRows : List (Byte × Byte) :=
  [(0xFF, 0x00), (0xFF, 0x01), (0xFF, 0x02), (0xFF, 0x03), (0xFF, 0x04), (0xFF, 0x05), (0xFF, 0x06), (0xFF, 0x07),
   (0xFF, 0x08), (0xFF, 0x09), (0xFF, 0x0A), (0xFF, 0x0B), (0xFF, 0x0C), (0xFF, 0x0D), (0xFF, 0x0E), (0xFF, 0x0F),
   (0xF0, 0x10), (0xE0, 0x20), (0xC0, 0x40), (0x80, 0x80)]

/-- The place of a DEC row in `infoTypeRows`. -/
def infoTypeRowOf (i : Instr) : Option Nat :=
  match i with
  | .decUnknown10 _ _ => some 16
  | .decUnknown20 _ _ => some 17
  | .decUnknown40 _ _ => some 18
  | .decUnknown80 _ _ => some 19
  | _ => (infoTypeOf i).map BitVec.toNat

/-! ### One word of the opcode table (the host's question)

The table's 8-bit rows are of three formats that share words: 0x00 is RESET, DEC_T0 and ENC_OFF. A word alone does not
say its format. DESIGN CHOICE (log 5, safe): an 8-bit word below 4 is an op select, any other is an infoType, and a
longer word is a CMD17 frame. -/

/-- The bytes of a word whose first byte is its lowest. -/
def bytesLowFirst : Nat → Nat → Bytes
  | 0, _ => []
  | n + 1, w => BitVec.ofNat 8 w :: bytesLowFirst n (w / 256)

/-- A command frame word of the table: 17 bytes, what the table gives no bits being zero. The table numbers this row's
match as a big-endian value whose top byte is byte 0; a word whose lowest byte is the marker is read low byte first. -/
def tableFrameWord (nbits w : Nat) : Bytes :=
  let low := bytesLowFirst ((nbits + 7) / 8) w
  let bytes := if byteAt low 0 = sync1 then low else low.reverse
  (bytes ++ List.replicate outFrameLen 0).take outFrameLen

/-- A frame of this infoType whose other bytes are zero, with 59 bytes of fields. -/
def tableInFrame : InFrame :=
  { sourceDest := 0
    rf := { rfLevel := 0, floorNoise := 0, rfQuality := 0, protocol := 0 }
    fields := List.replicate 59 0 }

/-- The request of one word of the table, every operand it does not give being zero or empty. -/
def tableRequest (nbits w : Nat) : Request :=
  if nbits ≤ 8 then
    match w with
    | 0 => .txn 0 0b00 .none
    | 1 => .txn 0 0b01 (.bytes [])
    | 2 => .txn 0 0b10 (.bytes [])
    | 3 => .txn 0 0b11 (.command { proto := none, token := "", idCode := none, dimIn := none })
    | w => decodeRequest (BitVec.ofNat 8 w) tableInFrame
  else .cmd17 (tableFrameWord nbits w)

/-- The instruction the decoder reads from one word of the table, under the configuration of power on. -/
def decodeTableWord (nbits w : Nat) : Option Instr :=
  match decode Configuration.initial (tableRequest nbits w) with
  | .ok i => some i
  | .error _ => none

end Sys2Proof
end

