-- ==== Sys2Proof/Machine/State.lean ====
section
/-! DEFINITION. The machine's state as plain data (10_state.md): the bound configuration tables (R29) and the reassembler
instances with their buffer B and fault mark FAULT (R23, R25, R30). Two fields are the model's own: the requests the host
has issued and the output list of the last transaction (R26). Here too are the engine's outputs (readings and events) and
the reasons a step can stop. -/

namespace Sys2Proof.Machine

/-! ### Readings (R140, R158) -/

/-- The sensor families of R158, as an enumeration; exact name strings are not in the source. -/
inductive Family where
  | x10DomiaLiteParrot
  | chacon
  | visonic
  | rts
  | oregon
  | owl
  | x2d
  | deprecatedThermostat
  | metering
  | fs20
  | jamming
  deriving DecidableEq, Repr

/-- `Body(t)` of R140: one constructor per infoType, with exactly the emitted fields and flags of R71's row. `temp` is the
signed value in tenths of a degree (R138); every other field is unsigned. -/
inductive Body where
  | t0
  | t1
  | t2 (qualifier : U16) (tamper alarm lowbatt alive : Flag)
  | t3 (qualifier : U16)
  | t4 (temp : Int) (humidity : U16) (lowbatt : Flag)
  | t5 (temp : Int) (humidity pressure : U16) (lowbatt : Flag)
  | t6 (speed direction : U16) (lowbatt : Flag)
  | t7 (light : U16) (lowbatt : Flag)
  | t8 (energy power pi1 pi2 pi3 : U16) (lowbatt : Flag)
  | t9 (totalRain rain : U16) (lowbatt : Flag)
  | t10 (qualifier : U16) (tamper anomaly lowbatt testassoc domestic : Flag)
  | t11 (qualifier : U16) (tamper anomaly lowbatt testassoc domestic : Flag)
  | t12 (qualifier : U16)
  | t13 (contractType setpoint : U16) (cnt1 cnt2 : U32) (apparentPower qualifier : U16)
  | t14 (qualifier : U16)
  | t15
  deriving DecidableEq, Repr

/-- The reading record of R140. -/
structure Reading where
  infoType : Fin 16
  family : Family
  id : U32
  subtype : U16
  body : Body
  deriving DecidableEq, Repr

/-! ### Events and outputs (R26, R241) -/

/-- The reason of a MALFORMED outcome (R245). -/
inductive Malformation where
  | badHeader
  | badLength
  | noPrefix
  | short
  deriving DecidableEq, Repr

/-- The events of R241. An event is an item of a transaction's output list; none traps (R240). -/
inductive Event where
  | desync (dropped : Nat)
  | overflow (requested : Nat)
  | unknownType (t : Byte)
  | malformed (reason : Malformation)
  | encUnresProto
  | encUnresAction
  | encUnresId
  | encRejected
  deriving DecidableEq, Repr

/-- One item of a transaction's output list (R26). -/
inductive Output where
  | frame (f : Bytes)
  | reading (r : Reading)
  | event (e : Event)
  deriving DecidableEq, Repr

/-! ### Reassembler instances (R23, R25, R30) -/

/-- The state of one reassembler instance: its buffer B and its sticky mark FAULT. -/
structure Reassembler where
  buffer : Bytes
  fault : Bool
  deriving DecidableEq, Repr

/-- The instance right after RESET or the opening of its connection (R31, R270, R271). -/
def Reassembler.fresh : Reassembler := { buffer := [], fault := false }

/-- The engine's stored memory: the instances by connection number, numbers strictly rising, none listed that is fresh.
A connection that is not listed has a fresh instance (R271). -/
abbrev Memory := List (Nat × Reassembler)

/-- The canonical form of the memory. -/
def Memory.wf : Memory → Bool
  | [] => true
  | (k, x) :: rest => x ≠ Reassembler.fresh && rest.all (fun e => k < e.1) && Memory.wf rest

/-! ### The machine -/

/-- The whole state. `cfg` and `memory` are the spec's; `requests` (the transactions issued and not yet taken, oldest
first) and `out` (the output list of the last transaction) are the model's own (log 3). -/
structure State where
  cfg : Configuration
  memory : Memory
  requests : List Request
  out : List Output
  deriving DecidableEq, Repr

/-- Why the machine stops with a fault: it never does. The one fault of the spec, OVERFLOW, stops an instance and not the
machine (R243): it is a next state with FAULT set. Nothing raises a fault of this type, which has no constructor. -/
inductive Fault where
  deriving DecidableEq, Repr

/-- Why a step has no meaning. -/
inductive Refusal where
  /-- Raised by `exec` for an instruction that has no meaning yet; safe. No arm raises it. -/
  | notModelled (mnemonic : String)
  /-- Raised by PUSH of more than MAX_BATCH bytes: the host broke its duty and there is no step (R100, R250, D3);
  safe. -/
  | batchTooLong (length : Nat)
  /-- Raised by `step` for a request that is no instruction (R79); safe, the spec gives such a request no effect. -/
  | undecodable (reason : DecodeError)
  deriving DecidableEq, Repr

/-- The machine right after reset (R31, R270): every instance fresh and no transaction issued or answered. The tables
hold the values of power on (R29; log 1 and log 2 name those the spec leaves open). -/
def State.reset : State :=
  { cfg := Configuration.initial, memory := [], requests := [], out := [] }

end Sys2Proof.Machine
end

