-- ==== Sys2Proof/Machine/Ops.lean ====
section
/-! DEFINITION. The named operations over the state: the instances' memory, the transaction's outputs, the reassembler's
append, marker search and scan (R100 to R109), the one fault OVERFLOW (R243), and the fetch of a request. There is no
trap entry and no return from one (R253, R254): an event is an output, and RESET is the only way on after OVERFLOW. -/

namespace Sys2Proof.Machine

/-! ### The instances -/

/-- The instance of connection k; a connection that is not listed has a fresh one (R271). -/
def Memory.read : Memory → Nat → Reassembler
  | [], _ => Reassembler.fresh
  | (j, y) :: rest, k => if j = k then y else Memory.read rest k

/-- Insert an entry before the first entry of a higher connection. -/
def Memory.insert (k : Nat) (x : Reassembler) : Memory → Memory
  | [] => [(k, x)]
  | (j, y) :: rest => if k < j then (k, x) :: (j, y) :: rest else (j, y) :: Memory.insert k x rest

/-- Give connection k the instance x, in canonical form: a fresh instance is not listed. -/
def Memory.write (m : Memory) (k : Nat) (x : Reassembler) : Memory :=
  let others := m.filter (fun e => e.1 ≠ k)
  if x = Reassembler.fresh then others else Memory.insert k x others

/-- The instance of connection k in a state. -/
def State.instanceAt (s : State) (k : Nat) : Reassembler := s.memory.read k

/-- The byte at offset o of the buffer of connection k; none past its end (R40). -/
def State.bufferByte (s : State) (k o : Nat) : Option Byte := (s.instanceAt k).buffer[o]?

/-- The state with another instance on connection k. -/
def State.setInstance (s : State) (k : Nat) (x : Reassembler) : State := { s with memory := s.memory.write k x }

/-- The state that answers a transaction with this output list (R13, R26). -/
def State.answer (s : State) (outs : List Output) : State := { s with out := outs }

/-- The state with these transactions issued and not yet taken. -/
def State.withRequests (s : State) (rs : List Request) : State := { s with requests := rs }

/-! ### Fetch -/

/-- Take the oldest transaction the host has issued; none when the engine is idle (R249, R260). -/
def State.fetch (s : State) : Option (Request × State) :=
  match s.requests with
  | [] => none
  | r :: rest => some (r, s.withRequests rest)

/-! ### The scan (R102 to R109) -/

/-- FINDMARKER of R104: the least offset of the two marker bytes. -/
def findMarker : Bytes → Option Nat
  | a :: b :: rest => if a = sync1 ∧ b = sync2 then some 0 else (findMarker (b :: rest)).map (· + 1)
  | [_] => none
  | [] => none

/-- One pass of the loop of R102 on the buffer b. `.inl` ends the scan with the items raised and the buffer left (R105,
R106, R107); `.inr` is a frame cut out and the buffer that remains (R108). The garbage in front of the frame is dropped
with no event, as R108, R117 and R248 say; the last sentence of R272 does not allow for it (log 20). -/
def scanPass (b : Bytes) : (List Output × Bytes) ⊕ (Bytes × Bytes) :=
  match findMarker b with
  | none => if b.length > desyncThreshold then .inl ([.event (.desync b.length)], []) else .inl ([], b)
  | some i =>
    if b.length < i + hdr then .inl ([], b)
    else
      let len := rdLE b (i + 3) 2
      if b.length < i + hdr + len then .inl ([], b)
      else .inr (slice b i (i + hdr + len), slice b (i + hdr + len) b.length)

/-- At most `fuel` passes of the loop of R102. -/
def scanFuel : Nat → Bytes → List Output × Bytes
  | 0, b => ([], b)
  | fuel + 1, b =>
    match scanPass b with
    | .inl r => r
    | .inr (f, rest) =>
      let (outs, left) := scanFuel fuel rest
      (.frame f :: outs, left)

/-- SCAN of R102: the items it appends to the output list and the buffer it leaves. A pass that does not end the scan
removes at least 5 bytes (R102), so one pass more than there are bytes is enough. -/
def scan (b : Bytes) : List Output × Bytes := scanFuel (b.length + 1) b

/-! ### PUSH and RESET on an instance (R100, R101, R103, R243) -/

/-- An append would exceed a finite BUF_CAP (R100). -/
def exceedsCap (cfg : Configuration) (n : Nat) : Bool :=
  match cfg.bufCap with
  | none => false
  | some cap => n > cap

/-- A batch is longer than a finite MAX_BATCH (R100, D3). -/
def exceedsBatch (cfg : Configuration) (n : Nat) : Bool :=
  match cfg.maxBatch with
  | none => false
  | some m => n > m

/-- `fault OVERFLOW(n)` (R13, R243): the buffer is unchanged, the sticky mark is set, the event is the only item. -/
def takeOverflow (x : Reassembler) (n : Nat) : Reassembler × List Output :=
  ({ x with fault := true }, [.event (.overflow n)])

/-- PUSH(S) of R100 on an instance, after the host's duty MAX_BATCH has been checked, in the order of R250. -/
def pushInto (cfg : Configuration) (x : Reassembler) (s : Bytes) : Reassembler × List Output :=
  if x.fault then (x, [.event (.overflow 0)])
  else if exceedsCap cfg (x.buffer.length + s.length) then takeOverflow x (x.buffer.length + s.length)
  else
    let (outs, left) := scan (x.buffer ++ s)
    ({ x with buffer := left }, outs)

/-! ### The framing states (R24) -/

/-- The stable states of the framing machine (R24). -/
inductive Framing where
  | empty
  | hunt
  | waitHdr
  | waitBody
  deriving DecidableEq, Repr

/-- The stable state a buffer is in; none if a scan would change it (R24). -/
def framingOf (b : Bytes) : Option Framing :=
  match findMarker b with
  | none => if b.length = 0 then some .empty else if b.length ≤ desyncThreshold then some .hunt else none
  | some i =>
    if b.length < i + hdr then some .waitHdr
    else if b.length < i + hdr + rdLE b (i + 3) 2 then some .waitBody
    else none

/-! ### Event codes and information (R241) -/

/-- The code of a MALFORMED reason (R245). -/
def malformationCode (m : Malformation) : Nat :=
  match m with
  | .badHeader => 1
  | .badLength => 2
  | .noPrefix => 3
  | .short => 4

/-- The event's code (R241). -/
def eventCode (e : Event) : Byte :=
  match e with
  | .desync _ => 0x01
  | .overflow _ => 0x02
  | .unknownType _ => 0x10
  | .malformed _ => 0x11
  | .encUnresProto => 0x20
  | .encUnresAction => 0x21
  | .encUnresId => 0x22
  | .encRejected => 0x23

/-- The event's information (R241); none for the encoder's events. -/
def eventInfo (e : Event) : Option Nat :=
  match e with
  | .desync n => some n
  | .overflow n => some n
  | .unknownType t => some t.toNat
  | .malformed m => some (malformationCode m)
  | .encUnresProto | .encUnresAction | .encUnresId | .encRejected => none

end Sys2Proof.Machine
end

