-- ==== Sys2Proof/Machine/Decoder.lean ====
section
/-! DEFINITION. The variant frame decoder (41_decoder.md): DECODE and the rows its infoType byte selects. The decoder holds
no state (R27): every meaning answers with one output and changes nothing else. -/

namespace Sys2Proof.Machine

/-- `family(t)` of R158. -/
def family (t : Fin 16) : Family :=
  match t.val with
  | 0 => .x10DomiaLiteParrot
  | 1 => .chacon
  | 2 => .visonic
  | 3 => .rts
  | 4 | 5 | 6 | 7 | 9 => .oregon
  | 8 => .owl
  | 10 | 11 => .x2d
  | 12 => .deprecatedThermostat
  | 13 => .metering
  | 14 => .fs20
  | _ => .jamming

/-- The reading record of type t from the common part and the body (R136, R140). -/
def mkReading (t : Fin 16) (id : U32) (subtype : U16) (body : Body) : Reading :=
  { infoType := t, family := family t, id := id, subtype := subtype, body := body }

/-! ### The readings, one per infoType (R141 to R156) -/

/-- DEC_T0 of R141, X10/DomiaLite/Parrot: the reading of the payload p. -/
def readT0 (cfg : Configuration) (p : Bytes) : Reading :=
  let l := cfg.layout.t0
  mkReading 0 (idA p l.id) (rd16 p l.st) .t0

/-- DEC_T1 of R142, Chacon: the reading of the payload p. -/
def readT1 (cfg : Configuration) (p : Bytes) : Reading :=
  let l := cfg.layout.t1
  mkReading 1 (idA p l.id) (rd16 p l.st) .t1

/-- DEC_T2 of R143, Visonic: the reading of the payload p. -/
def readT2 (cfg : Configuration) (p : Bytes) : Reading :=
  let l := cfg.layout.t2
  let q := rd16 p l.qualifier
  mkReading 2 (idA p l.id) (rd16 p l.st)
    (.t2 q (flagOf q cfg.flagBit.t2.tamper) (flagOf q cfg.flagBit.t2.alarm) (flagOf q cfg.flagBit.t2.lowbatt)
      (flagOf q cfg.flagBit.t2.alive))

/-- DEC_T3 of R144, RTS: the reading of the payload p. -/
def readT3 (cfg : Configuration) (p : Bytes) : Reading :=
  let l := cfg.layout.t3
  mkReading 3 (idA p l.id) (rd16 p l.st) (.t3 (rd16 p l.qualifier))

/-- DEC_T4 of R145, Oregon thermo/hygro: the reading of the payload p. -/
def readT4 (cfg : Configuration) (p : Bytes) : Reading :=
  let l := cfg.layout.t4
  let q := rd16 p l.qualifier
  mkReading 4 (idB p l.idPHY l.idChannel) (rd16 p l.st)
    (.t4 (valSigned p l.temp) (rd16 p l.humidity) (flagOf q cfg.flagBit.t4))

/-- DEC_T5 of R146, Oregon pressure: the reading of the payload p. -/
def readT5 (cfg : Configuration) (p : Bytes) : Reading :=
  let l := cfg.layout.t5
  let q := rd16 p l.qualifier
  mkReading 5 (idB p l.idPHY l.idChannel) (rd16 p l.st)
    (.t5 (valSigned p l.temp) (rd16 p l.humidity) (rd16 p l.pressure) (flagOf q cfg.flagBit.t5))

/-- DEC_T6 of R147, Oregon wind: the reading of the payload p. -/
def readT6 (cfg : Configuration) (p : Bytes) : Reading :=
  let l := cfg.layout.t6
  let q := rd16 p l.qualifier
  mkReading 6 (idB p l.idPHY l.idChannel) (rd16 p l.st)
    (.t6 (rd16 p l.speed) (rd16 p l.direction) (flagOf q cfg.flagBit.t6))

/-- DEC_T7 of R148, Oregon UV: the reading of the payload p. -/
def readT7 (cfg : Configuration) (p : Bytes) : Reading :=
  let l := cfg.layout.t7
  let q := rd16 p l.qualifier
  mkReading 7 (idB p l.idPHY l.idChannel) (rd16 p l.st) (.t7 (rd16 p l.light) (flagOf q cfg.flagBit.t7))

/-- DEC_T8 of R149, OWL power: the reading of the payload p. -/
def readT8 (cfg : Configuration) (p : Bytes) : Reading :=
  let l := cfg.layout.t8
  let q := rd16 p l.qualifier
  mkReading 8 (idB p l.idPHY l.idChannel) (rd16 p l.st)
    (.t8 (rd16 p l.energy) (rd16 p l.power) (rd16 p l.pi1) (rd16 p l.pi2) (rd16 p l.pi3) (flagOf q cfg.flagBit.t8))

/-- DEC_T9 of R150, Oregon rain: the reading of the payload p. -/
def readT9 (cfg : Configuration) (p : Bytes) : Reading :=
  let l := cfg.layout.t9
  let q := rd16 p l.qualifier
  mkReading 9 (idB p l.idPHY l.idChannel) (rd16 p l.st)
    (.t9 (rd16 p l.totalRain) (rd16 p l.rain) (flagOf q cfg.flagBit.t9))

/-- DEC_T10 of R151, X2D thermostat: the reading of the payload p. -/
def readT10 (cfg : Configuration) (p : Bytes) : Reading :=
  let l := cfg.layout.t10
  let q := rd16 p l.qualifier
  mkReading 10 (idA p l.id) (rd16 p l.st)
    (.t10 q (flagOf q cfg.flagBit.t10.tamper) (flagOf q cfg.flagBit.t10.anomaly) (flagOf q cfg.flagBit.t10.lowbatt)
      (flagOf q cfg.flagBit.t10.testassoc) (flagOf q cfg.flagBit.t10.domestic))

/-- DEC_T11 of R152, X2D shutter: the reading of the payload p. -/
def readT11 (cfg : Configuration) (p : Bytes) : Reading :=
  let l := cfg.layout.t11
  let q := rd16 p l.qualifier
  mkReading 11 (idA p l.id) (rd16 p l.st)
    (.t11 q (flagOf q cfg.flagBit.t11.tamper) (flagOf q cfg.flagBit.t11.anomaly) (flagOf q cfg.flagBit.t11.lowbatt)
      (flagOf q cfg.flagBit.t11.testassoc) (flagOf q cfg.flagBit.t11.domestic))

/-- DEC_T12 of R153, deprecated thermostat: the reading of the payload p. -/
def readT12 (cfg : Configuration) (p : Bytes) : Reading :=
  let l := cfg.layout.t12
  mkReading 12 (idA p l.id) (rd16 p l.st) (.t12 (rd16 p l.qualifier))

/-- DEC_T13 of R154, metering: the reading of the payload p. -/
def readT13 (cfg : Configuration) (p : Bytes) : Reading :=
  let l := cfg.layout.t13
  mkReading 13 (idA p l.id) (rd16 p l.st)
    (.t13 (rd16 p l.contractType) (rd16 p l.setpoint) (rd32 p l.cnt1) (rd32 p l.cnt2) (rd16 p l.apparentPower)
      (rd16 p l.qualifier))

/-- DEC_T14 of R155, FS20: the reading of the payload p. -/
def readT14 (cfg : Configuration) (p : Bytes) : Reading :=
  let l := cfg.layout.t14
  mkReading 14 (idA p l.id) (rd16 p l.st) (.t14 (rd16 p l.qualifier))

/-- DEC_T15 of R156, jamming indicator: the reading of the payload p. -/
def readT15 (cfg : Configuration) (p : Bytes) : Reading :=
  let l := cfg.layout.t15
  mkReading 15 (idA p l.id) (rd16 p l.st) .t15

/-- The reading of type t (R133): the rule R141 + t. -/
def readingOf (cfg : Configuration) (t : Fin 16) (p : Bytes) : Reading :=
  match t.val with
  | 0 => readT0 cfg p
  | 1 => readT1 cfg p
  | 2 => readT2 cfg p
  | 3 => readT3 cfg p
  | 4 => readT4 cfg p
  | 5 => readT5 cfg p
  | 6 => readT6 cfg p
  | 7 => readT7 cfg p
  | 8 => readT8 cfg p
  | 9 => readT9 cfg p
  | 10 => readT10 cfg p
  | 11 => readT11 cfg p
  | 12 => readT12 cfg p
  | 13 => readT13 cfg p
  | 14 => readT14 cfg p
  | _ => readT15 cfg p

/-! ### Outcomes -/

/-- The outcome of a row of a known infoType on its payload (R135): SHORT when the payload cannot hold the layout, else
the reading. -/
def layoutOutcome (minimum : Nat) (p : Bytes) (r : Reading) : Output :=
  if p.length < minimum then .event (.malformed .short) else .reading r

/-- The outcome of a DEC_UNKNOWN row (R134): no reading. -/
def unknownOutcome (t : Byte) : Output := .event (.unknownType t)

/-- DECODE(F) of R130, the checks in its order (R251). -/
def decodeFrame (cfg : Configuration) (frame : Bytes) : Output :=
  if frame.length < hdr ∨ byteAt frame 0 ≠ sync1 ∨ byteAt frame 1 ≠ sync2 then .event (.malformed .badHeader)
  else if frame.length ≠ hdr + declaredLen frame then .event (.malformed .badLength)
  else
    let p := payloadOf frame
    if declaredLen frame < rfPrefixLen then .event (.malformed .noPrefix)
    else
      let t := (byteAt p 4).toNat
      if h : t < 16 then layoutOutcome (minLenOf cfg ⟨t, h⟩) p (readingOf cfg ⟨t, h⟩ p)
      else unknownOutcome (byteAt p 4)

/-! ### The meanings -/

/-- DECODE (R130): one frame to one outcome, whatever the bytes are. -/
def execDecode (frame : Bytes) (s : State) : Host.Outcome State Fault Refusal :=
  .next (s.answer [decodeFrame s.cfg frame])

/-- DEC_T0 (R141), X10/DomiaLite/Parrot: infoType 0x00. -/
def execDecT0 (f : InFrame) (s : State) : Host.Outcome State Fault Refusal :=
  let p := inPayload 0x00 f
  .next (s.answer [layoutOutcome (minLen (spansPlain s.cfg.layout.t0)) p (readT0 s.cfg p)])

/-- DEC_T1 (R142), Chacon: infoType 0x01. -/
def execDecT1 (f : InFrame) (s : State) : Host.Outcome State Fault Refusal :=
  let p := inPayload 0x01 f
  .next (s.answer [layoutOutcome (minLen (spansPlain s.cfg.layout.t1)) p (readT1 s.cfg p)])

/-- DEC_T2 (R143), Visonic: infoType 0x02. -/
def execDecT2 (f : InFrame) (s : State) : Host.Outcome State Fault Refusal :=
  let p := inPayload 0x02 f
  .next (s.answer [layoutOutcome (minLen (spansQualified s.cfg.layout.t2)) p (readT2 s.cfg p)])

/-- DEC_T3 (R144), RTS: infoType 0x03. -/
def execDecT3 (f : InFrame) (s : State) : Host.Outcome State Fault Refusal :=
  let p := inPayload 0x03 f
  .next (s.answer [layoutOutcome (minLen (spansQualified s.cfg.layout.t3)) p (readT3 s.cfg p)])

/-- DEC_T4 (R145), Oregon thermo/hygro: infoType 0x04. -/
def execDecT4 (f : InFrame) (s : State) : Host.Outcome State Fault Refusal :=
  let p := inPayload 0x04 f
  .next (s.answer [layoutOutcome (minLen (spansThermo s.cfg.layout.t4)) p (readT4 s.cfg p)])

/-- DEC_T5 (R146), Oregon pressure: infoType 0x05. -/
def execDecT5 (f : InFrame) (s : State) : Host.Outcome State Fault Refusal :=
  let p := inPayload 0x05 f
  .next (s.answer [layoutOutcome (minLen (spansPressure s.cfg.layout.t5)) p (readT5 s.cfg p)])

/-- DEC_T6 (R147), Oregon wind: infoType 0x06. -/
def execDecT6 (f : InFrame) (s : State) : Host.Outcome State Fault Refusal :=
  let p := inPayload 0x06 f
  .next (s.answer [layoutOutcome (minLen (spansWind s.cfg.layout.t6)) p (readT6 s.cfg p)])

/-- DEC_T7 (R148), Oregon UV: infoType 0x07. -/
def execDecT7 (f : InFrame) (s : State) : Host.Outcome State Fault Refusal :=
  let p := inPayload 0x07 f
  .next (s.answer [layoutOutcome (minLen (spansUV s.cfg.layout.t7)) p (readT7 s.cfg p)])

/-- DEC_T8 (R149), OWL power: infoType 0x08. -/
def execDecT8 (f : InFrame) (s : State) : Host.Outcome State Fault Refusal :=
  let p := inPayload 0x08 f
  .next (s.answer [layoutOutcome (minLen (spansOwl s.cfg.layout.t8)) p (readT8 s.cfg p)])

/-- DEC_T9 (R150), Oregon rain: infoType 0x09. -/
def execDecT9 (f : InFrame) (s : State) : Host.Outcome State Fault Refusal :=
  let p := inPayload 0x09 f
  .next (s.answer [layoutOutcome (minLen (spansRain s.cfg.layout.t9)) p (readT9 s.cfg p)])

/-- DEC_T10 (R151), X2D thermostat: infoType 0x0A. -/
def execDecT10 (f : InFrame) (s : State) : Host.Outcome State Fault Refusal :=
  let p := inPayload 0x0A f
  .next (s.answer [layoutOutcome (minLen (spansQualified s.cfg.layout.t10)) p (readT10 s.cfg p)])

/-- DEC_T11 (R152), X2D shutter: infoType 0x0B. -/
def execDecT11 (f : InFrame) (s : State) : Host.Outcome State Fault Refusal :=
  let p := inPayload 0x0B f
  .next (s.answer [layoutOutcome (minLen (spansQualified s.cfg.layout.t11)) p (readT11 s.cfg p)])

/-- DEC_T12 (R153), deprecated thermostat: infoType 0x0C. -/
def execDecT12 (f : InFrame) (s : State) : Host.Outcome State Fault Refusal :=
  let p := inPayload 0x0C f
  .next (s.answer [layoutOutcome (minLen (spansQualified s.cfg.layout.t12)) p (readT12 s.cfg p)])

/-- DEC_T13 (R154), metering: infoType 0x0D. -/
def execDecT13 (f : InFrame) (s : State) : Host.Outcome State Fault Refusal :=
  let p := inPayload 0x0D f
  .next (s.answer [layoutOutcome (minLen (spansMetering s.cfg.layout.t13)) p (readT13 s.cfg p)])

/-- DEC_T14 (R155), FS20: infoType 0x0E. -/
def execDecT14 (f : InFrame) (s : State) : Host.Outcome State Fault Refusal :=
  let p := inPayload 0x0E f
  .next (s.answer [layoutOutcome (minLen (spansQualified s.cfg.layout.t14)) p (readT14 s.cfg p)])

/-- DEC_T15 (R156), jamming indicator: infoType 0x0F. -/
def execDecT15 (f : InFrame) (s : State) : Host.Outcome State Fault Refusal :=
  let p := inPayload 0x0F f
  .next (s.answer [layoutOutcome (minLen (spansPlain s.cfg.layout.t15)) p (readT15 s.cfg p)])

/-- DEC_UNKNOWN (R134, R244), infoType 0x10 to 0x1F: no reading, whatever the length and the other bytes. -/
def execDecUnknown10 (low : BitVec 4) (s : State) : Host.Outcome State Fault Refusal :=
  .next (s.answer [unknownOutcome (0x1#4 ++ low)])

/-- DEC_UNKNOWN (R134, R244), infoType 0x20 to 0x3F: no reading, whatever the length and the other bytes. -/
def execDecUnknown20 (low : BitVec 5) (s : State) : Host.Outcome State Fault Refusal :=
  .next (s.answer [unknownOutcome (0x1#3 ++ low)])

/-- DEC_UNKNOWN (R134, R244), infoType 0x40 to 0x7F: no reading, whatever the length and the other bytes. -/
def execDecUnknown40 (low : BitVec 6) (s : State) : Host.Outcome State Fault Refusal :=
  .next (s.answer [unknownOutcome (0x1#2 ++ low)])

/-- DEC_UNKNOWN (R134, R244), infoType 0x80 to 0xFF: no reading, whatever the length and the other bytes. -/
def execDecUnknown80 (low : BitVec 7) (s : State) : Host.Outcome State Fault Refusal :=
  .next (s.answer [unknownOutcome (0x1#1 ++ low)])

end Sys2Proof.Machine
end

