-- ==== Sys2Proof/Machine/Encoder.lean ====
section
/-! DEFINITION. The command frame encoder (42_encoder.md): ENCODE, the rows its token's action selects, and the serialiser
step ENC_FRAME. The encoder holds no state (R28): every meaning answers with its output list and changes nothing else. -/

namespace Sys2Proof.Machine

/-- The unresolved events of an ENCODE, in code order (R201, R213, R252). -/
def unresolved (pc : Byte) (ac : Option Byte) (id : Option U32) : List Event :=
  (if pc = 0 then [.encUnresProto] else [])
    ++ (if ac.isNone then [.encUnresAction] else [])
    ++ (if id.isNone then [.encUnresId] else [])

/-- ENCODE's output list once its values are resolved (R201, R213 to R215): the unresolved events, then the frame with 0
for each unresolved value, or under STRICT with an event ENC_REJECTED and no frame. -/
def encodeOutputs (strict : Bool) (pc : Byte) (ac : Option Byte) (id : Option U32) (dv : Byte) : List Output :=
  let u := unresolved pc ac id
  if strict ∧ u ≠ [] then u.map .event ++ [.event .encRejected]
  else u.map .event ++ [.frame (assemble pc (ac.getD 0) (id.getD 0) dv)]

/-- ENCODE of a command with the action byte `ac` (R201): the protocol, the dim byte and the id are resolved from the
command, each on its own. -/
def encodeWith (cfg : Configuration) (c : Command) (ac : Option Byte) : List Output :=
  let pc := protoCode cfg c.proto
  encodeOutputs cfg.strict pc ac (deviceId c.idCode) (dimByte cfg pc c.token c.dimIn)

/-- ENCODE(proto, token, idCode, dimIn) of R201. -/
def encodeCommand (cfg : Configuration) (c : Command) : List Output :=
  encodeWith cfg c ((commandAction cfg c).map (actionCode cfg))

/-- ENCODE (R201), whatever the command is. -/
def execEncode (c : Command) (s : State) : Host.Outcome State Fault Refusal :=
  .next (s.answer (encodeCommand s.cfg c))

/-- ENC_FRAME (R214): the serialiser step, the 17 bytes of the resolved values. -/
def execEncFrame (pc ac : Byte) (id : U32) (dv : Byte) (s : State) : Host.Outcome State Fault Refusal :=
  .next (s.answer [.frame (assemble pc ac id dv)])

/-- ENC_OFF (R216): ENCODE with the action byte ACTION_CODE[OFF]. -/
def execEncOff (c : Command) (s : State) : Host.Outcome State Fault Refusal :=
  .next (s.answer (encodeWith s.cfg c (some (actionCode s.cfg .off))))

/-- ENC_ON (R217): ENCODE with the action byte ACTION_CODE[ON], 0x01. -/
def execEncOn (c : Command) (s : State) : Host.Outcome State Fault Refusal :=
  .next (s.answer (encodeWith s.cfg c (some (actionCode s.cfg .on))))

/-- ENC_DIM (R218): ENCODE with the action byte ACTION_CODE[DIM]. -/
def execEncDim (c : Command) (s : State) : Host.Outcome State Fault Refusal :=
  .next (s.answer (encodeWith s.cfg c (some (actionCode s.cfg .dim))))

/-- ENC_ASSOC (R219): ENCODE with the action byte ACTION_CODE[ASSOC]. -/
def execEncAssoc (c : Command) (s : State) : Host.Outcome State Fault Refusal :=
  .next (s.answer (encodeWith s.cfg c (some (actionCode s.cfg .assoc))))

end Sys2Proof.Machine
end

