-- ==== Sys2Proof/Machine/Reassembler.lean ====
section
/-! DEFINITION. The transactions of the frame reassembler (40_reassembler.md): RESET and PUSH. -/

namespace Sys2Proof.Machine

/-- RESET (R103, R270): the connection's instance becomes fresh, with no output; the tables and the other instances are
not touched. -/
def execReset (conn : Nat) (s : State) : Host.Outcome State Fault Refusal :=
  .next ((s.setInstance conn Reassembler.fresh).answer [])

/-- PUSH(S) (R100): refused when the batch is longer than MAX_BATCH, else the append and the scan on the connection's
instance, whose items are the transaction's output list. -/
def execPush (conn : Nat) (batch : Bytes) (s : State) : Host.Outcome State Fault Refusal :=
  if exceedsBatch s.cfg batch.length then .refused (.batchTooLong batch.length)
  else
    let (x, outs) := pushInto s.cfg (s.instanceAt conn) batch
    .next ((s.setInstance conn x).answer outs)

end Sys2Proof.Machine
end

