-- ==== Sys2Proof/Machine/Dispatch.lean ====
section
/-! DEFINITION. exec: one arm per instruction, each one call of its meaning. -/

namespace Sys2Proof.Machine

def exec (i : Instr) (s : State) : Host.Outcome State Fault Refusal :=
  match i with
  | .reset conn => Sys2Proof.Machine.execReset conn s
  | .push conn batch => Sys2Proof.Machine.execPush conn batch s
  | .decode frame => Sys2Proof.Machine.execDecode frame s
  | .encode command => Sys2Proof.Machine.execEncode command s
  | .decT0 f => Sys2Proof.Machine.execDecT0 f s
  | .decT1 f => Sys2Proof.Machine.execDecT1 f s
  | .decT2 f => Sys2Proof.Machine.execDecT2 f s
  | .decT3 f => Sys2Proof.Machine.execDecT3 f s
  | .decT4 f => Sys2Proof.Machine.execDecT4 f s
  | .decT5 f => Sys2Proof.Machine.execDecT5 f s
  | .decT6 f => Sys2Proof.Machine.execDecT6 f s
  | .decT7 f => Sys2Proof.Machine.execDecT7 f s
  | .decT8 f => Sys2Proof.Machine.execDecT8 f s
  | .decT9 f => Sys2Proof.Machine.execDecT9 f s
  | .decT10 f => Sys2Proof.Machine.execDecT10 f s
  | .decT11 f => Sys2Proof.Machine.execDecT11 f s
  | .decT12 f => Sys2Proof.Machine.execDecT12 f s
  | .decT13 f => Sys2Proof.Machine.execDecT13 f s
  | .decT14 f => Sys2Proof.Machine.execDecT14 f s
  | .decT15 f => Sys2Proof.Machine.execDecT15 f s
  | .decUnknown10 low _ => Sys2Proof.Machine.execDecUnknown10 low s
  | .decUnknown20 low _ => Sys2Proof.Machine.execDecUnknown20 low s
  | .decUnknown40 low _ => Sys2Proof.Machine.execDecUnknown40 low s
  | .decUnknown80 low _ => Sys2Proof.Machine.execDecUnknown80 low s
  | .encFrame protocolCode action deviceId dimValue => Sys2Proof.Machine.execEncFrame protocolCode action deviceId dimValue s
  | .encOff command => Sys2Proof.Machine.execEncOff command s
  | .encOn command => Sys2Proof.Machine.execEncOn command s
  | .encDim command => Sys2Proof.Machine.execEncDim command s
  | .encAssoc command => Sys2Proof.Machine.execEncAssoc command s

end Sys2Proof.Machine
end

