-- ==== Sys2Proof/Machine/Step.lean ====
section
/-! DEFINITION. One step of the machine: take the oldest request, decode it, run it. A transaction is one step (R47). -/

namespace Sys2Proof.Machine

/-- One step. With no transaction issued the engine is idle and keeps its state (R260); a request that is no instruction
is refused by name; else the instruction runs in the state that has taken the request. -/
def step (s : State) : Host.Outcome State Fault Refusal :=
  match s.fetch with
  | none => .next s
  | some (r, s') =>
    match decode s.cfg r with
    | .error e => .refused (.undecodable e)
    | .ok i => exec i s'

/-- The state whose next step takes the instruction of this word of the opcode table: its request stands before the
requests already issued. It stands for the host's issuing of a transaction (log 6). -/
def State.withFetchWord (s : State) (nbits w : Nat) : State := s.withRequests (tableRequest nbits w :: s.requests)

end Sys2Proof.Machine
end

