-- ==== Sys2Proof/Machine/Presentation.lean ====
section
/-! DEFINITION. The optional output formatter of 41_decoder.md section 5 (R180 to R183): the string form of a reading's
fields under the keys of R71. No transaction calls it; topics and JSON are out of scope (R5). -/

namespace Sys2Proof.Machine

/-- One decimal digit as a character. -/
def digitChar (d : Nat) : Char := Char.ofNat (48 + d)

/-- The decimal digits of n, most significant first, no leading zeros; `fuel` bounds their number. -/
def decDigits : Nat → Nat → List Char
  | 0, _ => []
  | fuel + 1, n => if n < 10 then [digitChar n] else decDigits fuel (n / 10) ++ [digitChar (n % 10)]

/-- `dec(n)` of R180: the unsigned decimal form, "0" for zero. -/
def dec (n : Nat) : String := String.ofList (decDigits (n + 1) n)

/-- `reference` of R180: the infoType and the id. -/
def reference (r : Reading) : String := dec r.infoType.val ++ "-" ++ dec r.id.toNat

/-- A temperature in tenths as text (R181): sign, whole part, point, one decimal. -/
def tempText (v : Int) : String :=
  (if v < 0 then "-" else "") ++ dec (v.natAbs / 10) ++ "." ++ dec (v.natAbs % 10)

/-- A flag as text (R183). -/
def flagText (g : Flag) : String := if g = 0 then "0" else "1"

/-- The emitted fields of a body with their keys and text (R71, R181 to R183), in the order of R71's row: fields, then
flags. The light level of type 7 and the power of type 8 have no key in the source (N16). -/
def presentBody (b : Body) : List (Option String × String) :=
  match b with
  | .t0 => []
  | .t1 => []
  | .t2 q tamper alarm lowbatt alive =>
    [(some "q", dec q.toNat), (some "ftamper", flagText tamper), (some "falarm", flagText alarm),
     (some "flowbatt", flagText lowbatt), (some "falive", flagText alive)]
  | .t3 q => [(some "q", dec q.toNat)]
  | .t4 temp humidity lowbatt =>
    [(some "t", tempText temp), (some "h", dec humidity.toNat), (some "flowbatt", flagText lowbatt)]
  | .t5 temp humidity pressure lowbatt =>
    [(some "t", tempText temp), (some "h", dec humidity.toNat), (some "p", dec pressure.toNat),
     (some "flowbatt", flagText lowbatt)]
  | .t6 speed direction lowbatt =>
    [(some "s", dec speed.toNat), (some "d", dec direction.toNat), (some "flowbatt", flagText lowbatt)]
  | .t7 light lowbatt => [(none, dec light.toNat), (some "flowbatt", flagText lowbatt)]
  | .t8 energy power pi1 pi2 pi3 lowbatt =>
    [(some "e", dec energy.toNat), (none, dec power.toNat), (some "pi1", dec pi1.toNat), (some "pi2", dec pi2.toNat),
     (some "pi3", dec pi3.toNat), (some "flowbatt", flagText lowbatt)]
  | .t9 totalRain rain lowbatt =>
    [(some "tra", dec totalRain.toNat), (some "ra", dec rain.toNat), (some "flowbatt", flagText lowbatt)]
  | .t10 q tamper anomaly lowbatt testassoc domestic =>
    [(some "q", dec q.toNat), (some "ftamper", flagText tamper), (some "fanomaly", flagText anomaly),
     (some "flowbatt", flagText lowbatt), (some "ftestassoc", flagText testassoc),
     (some "fdomestic", flagText domestic)]
  | .t11 q tamper anomaly lowbatt testassoc domestic =>
    [(some "q", dec q.toNat), (some "ftamper", flagText tamper), (some "fanomaly", flagText anomaly),
     (some "flowbatt", flagText lowbatt), (some "ftestassoc", flagText testassoc),
     (some "fdomestic", flagText domestic)]
  | .t12 q => [(some "q", dec q.toNat)]
  | .t13 contractType setpoint cnt1 cnt2 apparentPower q =>
    [(some "ct", dec contractType.toNat), (some "sp", dec setpoint.toNat), (some "cnt1", dec cnt1.toNat),
     (some "cnt2", dec cnt2.toNat), (some "ap", dec apparentPower.toNat), (some "q", dec q.toNat)]
  | .t14 q => [(some "q", dec q.toNat)]
  | .t15 => []

/-- A reading's fields as text: the subtype under `st` (R182), then the body's. -/
def presentReading (r : Reading) : List (Option String × String) :=
  (some "st", dec r.subtype.toNat) :: presentBody r.body

end Sys2Proof.Machine
end

