-- ==== Sys2Proof/Machine/HostSide.lean ====
section
/-! DEFINITION. What the host does around the transactions: boot (R273, R274), opening a connection (R271), issuing a
transaction (R261), and the receive path and the pseudo-transactions built from transactions (R81, R110). -/

namespace Sys2Proof.Machine

/-- Boot with a bound configuration (R274): every table bound, every connection fresh, nothing issued. Binding another
configuration is a new engine (R53, R276). -/
def State.boot (cfg : Configuration) : State := { cfg := cfg, memory := [], requests := [], out := [] }

/-- Open connection k: its instance is in the state of RESET before its first PUSH (R271). -/
def State.openConnection (s : State) (k : Nat) : State := s.setInstance k Reassembler.fresh

/-- Issue a transaction: it is taken after those already issued (R50, R275). -/
def State.issue (s : State) (r : Request) : State := s.withRequests (s.requests ++ [r])

/-- One item of a PUSH on the receive path (R110): a frame is replaced by its DECODE outcome, an event keeps its place. -/
def rxItem (cfg : Configuration) (o : Output) : Output :=
  match o with
  | .frame f => decodeFrame cfg f
  | .reading r => .reading r
  | .event e => .event e

/-- The receive path (R110): PUSH, then DECODE of each frame it emitted, in order. -/
def receive (conn : Nat) (batch : Bytes) (s : State) : Host.Outcome State Fault Refusal :=
  match execPush conn batch s with
  | .next t => .next (t.answer (t.out.map (rxItem t.cfg)))
  | .fault r => .fault r
  | .refused r => .refused r

/-- `PUSHN n, hh` of R81: one PUSH of n copies of a byte. -/
def pushN (conn n : Nat) (b : Byte) : Request := .txn conn 0b01 (.bytes (List.replicate n b))

/-- `TRICKLE` of R81: one PUSH for each byte. -/
def trickle (conn : Nat) (s : Bytes) : List Request := s.map (fun b => .txn conn 0b01 (.bytes [b]))

/-- The DECODE transactions of the frames in an output list, in order (R81, RX). -/
def decodeFrames (outs : List Output) : List Request :=
  outs.filterMap (fun o =>
    match o with
    | .frame f => some (.txn 0 0b10 (.bytes f))
    | .reading _ => none
    | .event _ => none)

/-- Push batches one after another on a connection: the state after the last PUSH and the items of all of them, in order
(R112, R279); none if a PUSH is refused. -/
def State.pushes (conn : Nat) : State → List Bytes → Option (State × List Output)
  | s, [] => some (s, [])
  | s, b :: bs =>
    match execPush conn b s with
    | .next t =>
      match State.pushes conn t bs with
      | some (u, os) => some (u, t.out ++ os)
      | none => none
    | .fault _ => none
    | .refused _ => none

end Sys2Proof.Machine
end

