-- ==== Sys2Proof/Safety.lean ====
section
/-! DEFINITION. The terms in which claims speak of a good configuration, a good state and a good stream. -/

namespace Sys2Proof

open Sys2Proof.Machine

/-- The dim codes R29 allows in HA_DIM. -/
def haDimCodes : List Byte := [0, 3, 4, 5, 7]

/-- The legal values of the tables (R29, R70): offsets of at least 5, the id of type 1 not where type 0 has it, protocol
codes 1..16, HA_DIM values of {0,3,4,5,7}, and bounds of at least 1. -/
def Configuration.legal (cfg : Configuration) : Bool :=
  (List.finRange 16).all (fun t => (spansOf cfg.layout t).all (fun f => rfPrefixLen ≤ f.1))
    && cfg.layout.t1.id ≠ cfg.layout.t0.id
    && cfg.protoExtra.all (fun e => 1 ≤ e.2.toNat && e.2.toNat ≤ 16)
    && cfg.haProto.all (fun c => 1 ≤ c.toNat && c.toNat ≤ 16)
    && [cfg.haDim.autoLow, cfg.haDim.ecoLow, cfg.haDim.confortLow, cfg.haDim.auto, cfg.haDim.eco, cfg.haDim.confort,
        cfg.haDim.stop, cfg.haDim.horsGel].all (fun d => haDimCodes.contains d)
    && cfg.bufCap.all (fun n => 1 ≤ n)
    && cfg.maxBatch.all (fun n => 1 ≤ n)

/-- A well-formed frame of the stream (R112): it begins with the marker and is exactly 5 + len bytes long. -/
def frameOk (f : Bytes) : Bool :=
  hdr ≤ f.length && byteAt f 0 = sync1 && byteAt f 1 = sync2 && f.length = hdr + declaredLen f

/-- An instance as transactions leave it: the buffer is stable (R24) and within BUF_CAP (R23), and FAULT is set only
where BUF_CAP is finite (R25). -/
def Machine.Reassembler.sound (cfg : Configuration) (x : Reassembler) : Bool :=
  (framingOf x.buffer).isSome && !exceedsCap cfg x.buffer.length && (!x.fault || cfg.bufCap.isSome)

/-- A state as transactions leave it: the memory is in canonical form and every instance is sound. -/
def Machine.State.sound (s : Machine.State) : Bool :=
  Memory.wf s.memory && s.memory.all (fun e => Reassembler.sound s.cfg e.2)

/-- No OVERFLOW in an output list. -/
def noOverflow (outs : List Output) : Bool :=
  outs.all (fun o =>
    match o with
    | .event (.overflow _) => false
    | .event (.desync _) | .event (.unknownType _) | .event (.malformed _) | .event .encUnresProto
    | .event .encUnresAction | .event .encUnresId | .event .encRejected => true
    | .frame _ => true
    | .reading _ => true)

/-- A two's-complement 16-bit value as a number (R11). -/
def signed16 (raw : Nat) : Int := if raw < 32768 then (raw : Int) else (raw : Int) - 65536

/-- One bit of a word as a number (R9). -/
def bitOf (word : Nat) (bit : Fin 16) : Nat := word / 2 ^ bit.val % 2

/-- Two bytes of a sequence at offset i are the marker (R104). -/
abbrev markerAt (b : Bytes) (i : Nat) : Prop := i + 2 ≤ b.length ∧ byteAt b i = sync1 ∧ byteAt b (i + 1) = sync2

/-- Offset i is the first marker of a sequence (R104). -/
abbrev firstMarkerAt (b : Bytes) (i : Nat) : Prop := markerAt b i ∧ ∀ j < i, ¬ markerAt b j

/-- A PUSH that appends and scans (R100): the batch is within MAX_BATCH, FAULT is clear, and the append stays within
BUF_CAP. -/
abbrev pushRuns (s : Machine.State) (conn : Nat) (batch : Bytes) : Prop :=
  exceedsBatch s.cfg batch.length = false ∧ (s.instanceAt conn).fault = false ∧
    exceedsCap s.cfg ((s.instanceAt conn).buffer.length + batch.length) = false

/-- The state in which R284 rules OVERFLOW out: MAX_BATCH is m, a finite BUF_CAP is at least 65603 + 2m, and every
instance has FAULT clear and a stable buffer with fewer than 64 + m bytes of garbage in front of its first marker. -/
abbrev roomy (m : Nat) (s : Machine.State) : Prop :=
  s.cfg.maxBatch = some m ∧ (∀ cap, s.cfg.bufCap = some cap → 65603 + 2 * m ≤ cap) ∧
    ∀ k, (s.instanceAt k).fault = false ∧ (framingOf (s.instanceAt k).buffer).isSome = true ∧
      ∀ i, firstMarkerAt (s.instanceAt k).buffer i → i ≤ 62 + m

/-- What R135 and the R141 to R156 rules say of a row of infoType t on its payload: SHORT below MINLEN, else one reading
that is as the rule says; nothing else of the state changes. -/
abbrev rowAnswers (i : Instr) (s : Machine.State) (t : Fin 16) (p : Bytes) (asRuled : Reading → Prop) : Prop :=
  (p.length < minLenOf s.cfg t → exec i s = .next { s with out := [.event (.malformed .short)] }) ∧
    (minLenOf s.cfg t ≤ p.length → ∃ r, asRuled r ∧ exec i s = .next { s with out := [.reading r] })

/-- The common part of a reading (R136, R140) as numbers. -/
abbrev hasHead (r : Reading) (t : Fin 16) (fam : Family) (id subtype : Nat) : Prop :=
  r.infoType = t ∧ r.family = fam ∧ r.id.toNat = id ∧ r.subtype.toNat = subtype

/-- The infoType whose body this is (R140). -/
def bodyTag (b : Body) : Nat :=
  match b with
  | .t0 => 0
  | .t1 => 1
  | .t2 _ _ _ _ _ => 2
  | .t3 _ => 3
  | .t4 _ _ _ => 4
  | .t5 _ _ _ _ => 5
  | .t6 _ _ _ => 6
  | .t7 _ _ => 7
  | .t8 _ _ _ _ _ _ => 8
  | .t9 _ _ _ => 9
  | .t10 _ _ _ _ _ _ => 10
  | .t11 _ _ _ _ _ _ => 11
  | .t12 _ => 12
  | .t13 _ _ _ _ _ _ => 13
  | .t14 _ => 14
  | .t15 => 15

/-- What R216 to R219 say of an action row: ENCODE with this action code in byte 8. The action is resolved; a frame comes
out last unless STRICT rejects an unresolved protocol or id. -/
abbrev actionRowAnswers (i : Instr) (s : Machine.State) (c : Command) (code : Byte) : Prop :=
  ∃ outs, exec i s = .next { s with out := outs } ∧ .event .encUnresAction ∉ outs ∧
    (s.cfg.strict = false ∨ (protoCode s.cfg c.proto ≠ 0 ∧ deviceId c.idCode ≠ none) →
      outs.getLast? = some (.frame (assemble (protoCode s.cfg c.proto) code ((deviceId c.idCode).getD 0)
        (dimByte s.cfg (protoCode s.cfg c.proto) c.token c.dimIn)))) ∧
    (s.cfg.strict = true ∧ (protoCode s.cfg c.proto = 0 ∨ deviceId c.idCode = none) →
      outs.getLast? = some (.event .encRejected) ∧ ∀ f, .frame f ∉ outs)

/-- One or more ASCII decimal digits (the D+ of R78). -/
abbrev digits (cs : List Char) : Prop := cs ≠ [] ∧ ∀ c ∈ cs, 48 ≤ c.toNat ∧ c.toNat ≤ 57

/-- The value of decimal digits by their places. -/
def decimalValue : List Char → Nat
  | [] => 0
  | c :: cs => (c.toNat - 48) * 10 ^ cs.length + decimalValue cs

/-- The codes of the events of an output list, in order. -/
def eventCodes (outs : List Output) : List Nat :=
  outs.filterMap (fun o =>
    match o with
    | .event e => some (eventCode e).toNat
    | .frame _ => none
    | .reading _ => none)

end Sys2Proof
end

