-- ==== Sys2Proof/Certificates/Slice0/Obligations.lean ====
section
/-! DEFINITION. The statements for the provers. A state after a meaning is written as a record update of the state before
it, so that a statement of a result is also the statement of its frame. -/

open Sys2Proof Sys2Proof.Machine

/-! ### The machine -/

/-- R47, R79: a step runs the instruction that the oldest request decodes to, in the state that has taken the request. The
queue of requests is the model's own (log 3). -/
def Obligations.StepRunsDecodedInstruction : Prop :=
  ∀ (s : State) (r : Request) (rest : List Request) (i : Instr),
    s.requests = r :: rest → decode s.cfg r = .ok i →
      i.wellFormed s.cfg = true ∧ step s = exec i { s with requests := rest }

/-- R260: with no transaction issued the engine keeps its state. That a step then answers the same state is the model's
choice (log 6). -/
def Obligations.IdleStepKeepsState : Prop :=
  ∀ s : State, s.requests = [] → step s = .next s

/-- R79: which operand each op select takes. That any other request is refused by name is the model's choice (log 10). -/
def Obligations.EachOpTakesItsOperand : Prop :=
  ∀ (s : State) (conn : Nat) (op : BitVec 2) (operand : Operand) (rest : List Request),
    s.requests = .txn conn op operand :: rest →
      ((∃ i, decode s.cfg (.txn conn op operand) = .ok i) ↔
        (op = 0b00 ∧ operand = .none) ∨ (op = 0b01 ∧ ∃ b, operand = .bytes b) ∨
        (op = 0b10 ∧ ∃ b, operand = .bytes b) ∨ (op = 0b11 ∧ ∃ c, operand = .command c)) ∧
      ((∀ i, decode s.cfg (.txn conn op operand) ≠ .ok i) →
        step s = .refused (.undecodable (.operandMismatch op)))

/-- R60 to R66, R73, R74, R79: every well-formed instruction is read back from its encoding, under every configuration. The
request of ENC_FRAME is the model's own (log 4), its ten constant bytes are read from R66 (log 27), and which instructions
the rows DECODE and ENCODE keep is the model's reading (log 7). -/
def Obligations.DecodeInvertsEncode : Prop :=
  ∀ (cfg : Configuration) (i : Instr), i.wellFormed cfg = true → decode cfg (encode i) = .ok i

/-- R79, R30: a request that decodes is the encoding of its instruction, but for the connection of a DECODE or ENCODE,
which belong to none (log 7); and the instruction is well formed. -/
def Obligations.EncodeInvertsDecode : Prop :=
  ∀ (cfg : Configuration) (r : Request) (i : Instr), decode cfg r = .ok i →
    i.wellFormed cfg = true ∧
      (r = encode i ∨
        ∃ conn op operand, r = .txn conn op operand ∧ 2 ≤ op.toNat ∧ encode i = .txn 0 op operand)

/-- R73, R74: the rows of the discriminant map share no infoType and leave none out, and the decoder picks the row. -/
def Obligations.InfoTypeRowsPartitionTheBytes : Prop :=
  ∀ (t : Byte) (f : InFrame), ∃ k, k < 20 ∧ infoTypeRowOf (selectInfoType t f) = some k ∧
    ∀ j, j < 20 → ((∃ row, infoTypeRows[j]? = some row ∧ t &&& row.1 = row.2) ↔ j = k)

/-- R60, R66, R73, R79: words written out from the encoding tables decode to the instructions they stand for. The request
that carries the last word is the model's own (log 4); its ten constant bytes are log 27. -/
def Obligations.WrittenWordsDecode : Prop :=
  decode Configuration.initial (.txn 3 0b00 .none) = .ok (.reset 3) ∧
  decode Configuration.initial (.txn 3 0b01 (.bytes [0x5A, 0x49])) = .ok (.push 3 [0x5A, 0x49]) ∧
  decode Configuration.initial
      (.txn 0 0b10 (.bytes [0x5A, 0x49, 0x00, 0x0B, 0x00, 0xC4, 0x9C, 0x0A, 0x01, 0x00, 0x02, 0x00, 0x78, 0x56, 0x34, 0x12]))
    = .ok (.decT0 { sourceDest := 0x00
                    rf := { rfLevel := 0xC4, floorNoise := 0x9C, rfQuality := 0x0A, protocol := 0x01 }
                    fields := [0x02, 0x00, 0x78, 0x56, 0x34, 0x12] }) ∧
  decode Configuration.initial (.txn 0 0b10 (.bytes [0x5A, 0x49, 0x00, 0x05, 0x00, 0xC4, 0x9C, 0x0A, 0x01, 0x20]))
    = .ok (.decUnknown20 0 { sourceDest := 0x00
                             rf := { rfLevel := 0xC4, floorNoise := 0x9C, rfQuality := 0x0A, protocol := 0x01 }
                             fields := [] }) ∧
  decode Configuration.initial
      (.cmd17 [0x5A, 0x49, 0x01, 0x0C, 0x00, 0x00, 0x00, 0x0B, 0x02, 0x10, 0x00, 0x00, 0x00, 0x04, 0x00, 0x00, 0x00])
    = .ok (.encFrame 0x0B 0x02 16 0x04)

/-- R29, R276: no step writes a configuration table. -/
def Obligations.ConfigurationNeverChanges : Prop :=
  ∀ s t : State, step s = .next t → t.cfg = s.cfg

/-- R24 with R23 and R25: every step keeps every buffer in one of the stable states and within BUF_CAP, keeps FAULT clear
where BUF_CAP is infinite, and keeps the memory's canonical form. -/
def Obligations.StepKeepsSoundness : Prop :=
  ∀ s t : State, s.sound = true → step s = .next t → t.sound = true

/-- R31, R271: at reset every instance is as RESET leaves it and the state is sound. -/
def Obligations.ResetStateIsSound : Prop :=
  State.reset.sound = true ∧ State.reset.memory = [] ∧
    ∀ k, (State.reset.instanceAt k).buffer = [] ∧ (State.reset.instanceAt k).fault = false

/-- R271: an opened connection is in the state of RESET, and opening it is RESET but for the transaction's answer. -/
def Obligations.OpenedConnectionIsReset : Prop :=
  ∀ (s : State) (k : Nat),
    ((s.openConnection k).instanceAt k).buffer = [] ∧ ((s.openConnection k).instanceAt k).fault = false ∧
      exec (.reset k) s = .next { s.openConnection k with out := [] }

/-- R30, R46: an instruction changes no table, no pending request and no instance but the one its PUSH or RESET names,
down to each byte of its buffer. -/
def Obligations.OnlyTheNamedInstanceChanges : Prop :=
  ∀ (i : Instr) (s t : State), exec i s = .next t →
    t.cfg = s.cfg ∧ t.requests = s.requests ∧
      ∀ k, i ≠ .reset k → (∀ batch, i ≠ .push k batch) →
        t.instanceAt k = s.instanceAt k ∧ ∀ o, t.bufferByte k o = s.bufferByte k o

/-- R30: what PUSH answers and leaves on its connection depends on that connection's instance and the tables alone. -/
def Obligations.PushReadsOnlyItsInstance : Prop :=
  ∀ (s u : State) (k : Nat) (batch : Bytes), s.cfg = u.cfg → s.instanceAt k = u.instanceAt k →
    (∀ n, exec (.push k batch) s = .refused n ↔ exec (.push k batch) u = .refused n) ∧
      ∀ t, exec (.push k batch) s = .next t →
        ∃ v, exec (.push k batch) u = .next v ∧ v.out = t.out ∧ v.instanceAt k = t.instanceAt k

/-- R27: the outcome of DECODE is a function of the frame and the tables LAYOUT and FLAGBIT alone. -/
def Obligations.DecoderReadsOnlyItsTables : Prop :=
  ∀ (s u : State) (frame : Bytes), s.cfg.layout = u.cfg.layout → s.cfg.flagBit = u.cfg.flagBit →
    ∃ o, exec (.decode frame) s = .next { s with out := [o] } ∧ exec (.decode frame) u = .next { u with out := [o] }

/-- R28: the answer of ENCODE is a function of the command and the encoder's tables alone. -/
def Obligations.EncoderReadsOnlyItsTables : Prop :=
  ∀ (s u : State) (c : Command), s.cfg.protoExtra = u.cfg.protoExtra → s.cfg.actionCode = u.cfg.actionCode →
    s.cfg.haProto = u.cfg.haProto → s.cfg.haDim = u.cfg.haDim → s.cfg.strict = u.cfg.strict →
    ∃ outs, exec (.encode c) s = .next { s with out := outs } ∧ exec (.encode c) u = .next { u with out := outs }

/-- R51: a PUSH and an ENCODE give the same results in either order. -/
def Obligations.InboundAndOutboundCommute : Prop :=
  ∀ (s t : State) (k : Nat) (batch : Bytes) (c : Command), exec (.push k batch) s = .next t →
    ∃ u v w, exec (.encode c) s = .next u ∧ exec (.encode c) t = .next v ∧ exec (.push k batch) u = .next w ∧
      v.out = u.out ∧ w.out = t.out ∧ v.memory = t.memory ∧ w.memory = t.memory

/-! ### The reassembler -/

/-- R100: PUSH is refused above MAX_BATCH, answers OVERFLOW(0) on a faulted instance, takes the OVERFLOW fault above
BUF_CAP, and else appends and scans; only the connection's instance and the answer change. -/
def Obligations.PushAppendsAndScans : Prop :=
  ∀ (s : State) (k : Nat) (batch : Bytes),
    let x := s.instanceAt k
    let n := x.buffer.length + batch.length
    (exceedsBatch s.cfg batch.length = true → exec (.push k batch) s = .refused (.batchTooLong batch.length)) ∧
    (exceedsBatch s.cfg batch.length = false →
      ∃ t, exec (.push k batch) s = .next t ∧ t.cfg = s.cfg ∧ t.requests = s.requests ∧
        (∀ j, j ≠ k → t.instanceAt j = s.instanceAt j) ∧
        (x.fault = true → t.instanceAt k = x ∧ t.out = [.event (.overflow 0)]) ∧
        (x.fault = false → exceedsCap s.cfg n = true →
          (t.instanceAt k).buffer = x.buffer ∧ (t.instanceAt k).fault = true ∧ t.out = [.event (.overflow n)]) ∧
        (x.fault = false → exceedsCap s.cfg n = false →
          (t.instanceAt k).buffer = (scan (x.buffer ++ batch)).2 ∧ (t.instanceAt k).fault = false ∧
            t.out = (scan (x.buffer ++ batch)).1))

/-- R102: SCAN is the framing loop. -/
def Obligations.ScanIsTheFramingLoop : Prop :=
  ∀ b : Bytes, scan b =
    match findMarker b with
    | none => if b.length > 64 then ([.event (.desync b.length)], []) else ([], b)
    | some i =>
      if b.length < i + 5 then ([], b)
      else if b.length < i + 5 + rdLE b (i + 3) 2 then ([], b)
      else
        let f := slice b i (i + 5 + rdLE b (i + 3) 2)
        let rest := slice b (i + 5 + rdLE b (i + 3) 2) b.length
        (.frame f :: (scan rest).1, (scan rest).2)

/-- R103, R270: RESET empties the connection's buffer and clears FAULT, with no output, and touches nothing else. -/
def Obligations.ResetClearsItsInstance : Prop :=
  ∀ (s : State) (k : Nat), ∃ t, exec (.reset k) s = .next t ∧
    (t.instanceAt k).buffer = [] ∧ (t.instanceAt k).fault = false ∧ t.out = [] ∧
    t.cfg = s.cfg ∧ t.requests = s.requests ∧ ∀ j, j ≠ k → t.instanceAt j = s.instanceAt j

/-- R105: with no marker in the buffer, more than 64 bytes are dropped and counted, 64 or fewer are kept; said of a scan
wherever it meets such a buffer, and of a PUSH whose append leaves one. -/
def Obligations.DesyncAboveSixtyFourBytes : Prop :=
  (∀ b : Bytes, (∀ i, ¬ markerAt b i) →
    (64 < b.length → scan b = ([.event (.desync b.length)], [])) ∧ (b.length ≤ 64 → scan b = ([], b))) ∧
  ∀ (s : State) (k : Nat) (batch : Bytes),
    let b := (s.instanceAt k).buffer ++ batch
    pushRuns s k batch → (∀ i, ¬ markerAt b i) →
      ∃ t, exec (.push k batch) s = .next t ∧
        (64 < b.length → t.out = [.event (.desync b.length)] ∧ (t.instanceAt k).buffer = []) ∧
        (b.length ≤ 64 → t.out = [] ∧ (t.instanceAt k).buffer = b)

/-- R106: with the marker at offset i and fewer than i + 5 bytes, the scan ends and drops nothing, whatever the
length; said of a scan and of a PUSH. -/
def Obligations.HeaderWaitKeepsTheBuffer : Prop :=
  (∀ (b : Bytes) (i : Nat), firstMarkerAt b i → b.length < i + 5 → scan b = ([], b)) ∧
  ∀ (s : State) (k : Nat) (batch : Bytes) (i : Nat),
    let b := (s.instanceAt k).buffer ++ batch
    pushRuns s k batch → firstMarkerAt b i → b.length < i + 5 →
      ∃ t, exec (.push k batch) s = .next t ∧ t.out = [] ∧ (t.instanceAt k).buffer = b

/-- R107 to R109: with the header complete, the scan waits for the declared length; once it is there, the frame comes out,
the bytes in front of it are dropped, and the scan goes on behind it; said of a scan and of a PUSH. -/
def Obligations.CompleteFrameIsCutOut : Prop :=
  (∀ (b : Bytes) (i : Nat),
    let len := (byteAt b (i + 3)).toNat + 256 * (byteAt b (i + 4)).toNat
    firstMarkerAt b i → i + 5 ≤ b.length →
      (b.length < i + 5 + len → scan b = ([], b)) ∧
      (i + 5 + len ≤ b.length →
        scan b = (.frame ((b.drop i).take (5 + len)) :: (scan (b.drop (i + 5 + len))).1,
          (scan (b.drop (i + 5 + len))).2))) ∧
  ∀ (s : State) (k : Nat) (batch : Bytes) (i : Nat),
    let b := (s.instanceAt k).buffer ++ batch
    let len := (byteAt b (i + 3)).toNat + 256 * (byteAt b (i + 4)).toNat
    pushRuns s k batch → firstMarkerAt b i → i + 5 ≤ b.length →
      ∃ t, exec (.push k batch) s = .next t ∧
        (b.length < i + 5 + len → t.out = [] ∧ (t.instanceAt k).buffer = b) ∧
        (i + 5 + len ≤ b.length →
          t.out = .frame ((b.drop i).take (5 + len)) :: (scan (b.drop (i + 5 + len))).1 ∧
          (t.instanceAt k).buffer = (scan (b.drop (i + 5 + len))).2)

/-- R111: a PUSH that is not refused and does not fault leaves its buffer stable; one that faults leaves it as it was, and
in a state as transactions leave it that is stable too. -/
def Obligations.PushLeavesAStableBuffer : Prop :=
  ∀ (s t : State) (k : Nat) (batch : Bytes), exec (.push k batch) s = .next t →
    ((t.instanceAt k).fault = false → (framingOf (t.instanceAt k).buffer).isSome = true) ∧
      ((t.instanceAt k).fault = true → (t.instanceAt k).buffer = (s.instanceAt k).buffer) ∧
      (s.sound = true → (framingOf (t.instanceAt k).buffer).isSome = true)

/-- R114: a PUSH answers with an OVERFLOW alone, or with frames and at most one DESYNC, of more than 64 bytes, behind all
of them, which empties the buffer. -/
def Obligations.DesyncComesLastAndOnce : Prop :=
  ∀ (s t : State) (k : Nat) (batch : Bytes), exec (.push k batch) s = .next t →
    (∃ n, t.out = [.event (.overflow n)]) ∨
    ∃ fs : List Bytes, t.out = fs.map .frame ∨
      ∃ n, 64 < n ∧ t.out = fs.map .frame ++ [.event (.desync n)] ∧ (t.instanceAt k).buffer = []

/-- R49, R101, R108: the frames a PUSH emits lie in the buffer and batch in stream order, each whole and each behind bytes
that start no marker; what lies behind the last is the buffer left, or was dropped and counted. -/
def Obligations.EmittedFramesPartitionTheStream : Prop :=
  ∀ (s t : State) (k : Nat) (batch : Bytes), pushRuns s k batch → exec (.push k batch) s = .next t →
    ∃ (cuts : List (Bytes × Bytes)) (tail : Bytes),
      (s.instanceAt k).buffer ++ batch = (cuts.flatMap (fun c => c.1 ++ c.2)) ++ tail ∧
      (∀ c ∈ cuts, frameOk c.2 = true ∧ ∀ i < c.1.length, ¬ markerAt (c.1 ++ c.2) i) ∧
      ((t.out = cuts.map (fun c => .frame c.2) ∧ (t.instanceAt k).buffer = tail) ∨
        (t.out = cuts.map (fun c => .frame c.2) ++ [.event (.desync tail.length)] ∧ (t.instanceAt k).buffer = []))

/-- R110: the receive path answers with the PUSH's items, each frame replaced by what its DECODE transaction answers. -/
def Obligations.ReceivePathDecodesEachFrame : Prop :=
  ∀ (s t : State) (k : Nat) (batch : Bytes), exec (.push k batch) s = .next t →
    ∃ u, receive k batch s = .next u ∧ u.memory = t.memory ∧ u.cfg = t.cfg ∧ u.out.length = t.out.length ∧
      ∀ n : Nat, (∀ e, t.out[n]? = some (.event e) → u.out[n]? = some (.event e)) ∧
        (∀ f, t.out[n]? = some (.frame f) →
          ∃ o, u.out[n]? = some o ∧ exec (.decode f) t = .next { t with out := [o] })

/-- R281, R131: on the receive path no outcome is BAD_HEADER or BAD_LENGTH. -/
def Obligations.ReceivePathNeverMeetsBadFrames : Prop :=
  ∀ (s t : State) (k : Nat) (batch : Bytes), receive k batch s = .next t →
    ∀ o ∈ t.out, o ≠ .event (.malformed .badHeader) ∧ o ≠ .event (.malformed .badLength)

/-- R116: in a state as transactions leave it, an empty batch on an unfaulted instance changes nothing. -/
def Obligations.EmptyBatchChangesNothing : Prop :=
  ∀ (s : State) (k : Nat), s.sound = true → (s.instanceAt k).fault = false →
    exec (.push k []) s = .next { s with out := [] }

/-- R112: a stream of well-formed frames, however it is split into batches, gives exactly those frames in order, with no
event, and leaves the buffer empty. -/
def Obligations.CleanStreamsIgnoreChunking : Prop :=
  ∀ (s : State) (k : Nat) (frames batches : List Bytes),
    s.cfg.bufCap = none → (∀ b ∈ batches, exceedsBatch s.cfg b.length = false) →
    s.instanceAt k = Reassembler.fresh → (∀ f ∈ frames, frameOk f = true) → batches.flatten = frames.flatten →
      ∃ t, State.pushes k s batches = some (t, frames.map .frame) ∧ t.instanceAt k = Reassembler.fresh

/-- R113, R277, R279: outside clean streams the split matters. One stream of 69 bytes gives its frame in one batch, and a
DESYNC and no frame in three. -/
def Obligations.BatchBoundariesMatter : Prop :=
  (∃ t, State.pushes 0 State.reset [List.replicate 64 0 ++ [0x5A] ++ [0x49, 0, 0, 0]] =
      some (t, [.frame [0x5A, 0x49, 0, 0, 0]])) ∧
    ∃ t, State.pushes 0 State.reset [List.replicate 64 0, [0x5A], [0x49, 0, 0, 0]] =
      some (t, [.event (.desync 65)])

/-- R25: FAULT is false at reset, is set only by an OVERFLOW, which leaves the buffer, and is cleared only by RESET; while
it is set nothing else changes the instance. -/
def Obligations.FaultIsStickyUntilReset : Prop :=
  (∀ k, (State.reset.instanceAt k).fault = false) ∧
    ∀ (s t : State) (r : Request) (rest : List Request) (i : Instr) (k : Nat),
      s.requests = r :: rest → decode s.cfg r = .ok i → step s = .next t →
        ((s.instanceAt k).fault = true → i ≠ .reset k → t.instanceAt k = s.instanceAt k) ∧
        ((s.instanceAt k).fault = true → ∀ batch, i = .push k batch → t.out = [.event (.overflow 0)]) ∧
        ((s.instanceAt k).fault = false → (t.instanceAt k).fault = true →
          (t.instanceAt k).buffer = (s.instanceAt k).buffer ∧
            ∃ batch, i = .push k batch ∧
              exceedsCap s.cfg ((s.instanceAt k).buffer.length + batch.length) = true ∧
              t.out = [.event (.overflow ((s.instanceAt k).buffer.length + batch.length))])

/-- R284: with MAX_BATCH m and BUF_CAP of at least 65603 + 2m, no stream of batches raises OVERFLOW. -/
def Obligations.LargeCapacityNeverOverflows : Prop :=
  ∀ (s : State) (k m cap : Nat) (batches : List Bytes),
    s.cfg.maxBatch = some m → s.cfg.bufCap = some cap → 65603 + 2 * m ≤ cap →
    s.instanceAt k = Reassembler.fresh → (∀ b ∈ batches, b.length ≤ m) →
      ∃ t outs, State.pushes k s batches = some (t, outs) ∧ noOverflow outs = true ∧ (t.instanceAt k).fault = false

/-- R284: in a state where a finite BUF_CAP is at least 65603 + 2m for MAX_BATCH m and every buffer is stable with fewer
than 64 + m bytes of garbage, every step keeps all of that and raises no OVERFLOW; a boot with such bounds is such a
state. -/
def Obligations.StepKeepsRoomAndNeverOverflows : Prop :=
  (∀ (cfg : Configuration) (m : Nat), cfg.maxBatch = some m → (∀ cap, cfg.bufCap = some cap → 65603 + 2 * m ≤ cap) →
    roomy m (State.boot cfg)) ∧
  ∀ (s t : State) (m : Nat), roomy m s → step s = .next t →
    roomy m t ∧ (s.requests ≠ [] → noOverflow t.out = true)

/-! ### The decoder -/

/-- R12, R41: a field read is the sum of its bytes, each weighted by its place, the lowest offset least. -/
def Obligations.FieldReadsAreLittleEndian : Prop :=
  ∀ (b : Bytes) (o n : Nat), rdLE b o n = ((List.range n).map (fun k => (byteAt b (o + k)).toNat * 2 ^ (8 * k))).sum

/-- R130, R245, R251: DECODE answers exactly one outcome, that of the first check that fails. -/
def Obligations.DecodeReportsTheFirstDefect : Prop :=
  ∀ (s : State) (frame : Bytes),
    let len := rdLE frame 3 2
    let p := frame.drop 5
    exec (.decode frame) s = .next { s with out := [
      if frame.length < 5 ∨ byteAt frame 0 ≠ 0x5A ∨ byteAt frame 1 ≠ 0x49 then .event (.malformed .badHeader)
      else if frame.length ≠ 5 + len then .event (.malformed .badLength)
      else if len < 5 then .event (.malformed .noPrefix)
      else if h : (byteAt frame 9).toNat < 16 then
        if len < minLenOf s.cfg ⟨(byteAt frame 9).toNat, h⟩ then .event (.malformed .short)
        else .reading (readingOf s.cfg ⟨(byteAt frame 9).toNat, h⟩ p)
      else .event (.unknownType (byteAt frame 9))] }

/-- R130, R133, R134: the row that the infoType byte selects answers as DECODE of the frame does (log 7). -/
def Obligations.InfoTypeRowsMeanDecode : Prop :=
  ∀ (s : State) (conn : Nat) (frame : Bytes) (i : Instr),
    decode s.cfg (.txn conn 0b10 (.bytes frame)) = .ok i → exec i s = exec (.decode frame) s

/-- R141, R142, R156: types 0, 1 and 15 give the Scheme A id and the subtype. -/
def Obligations.PlainRowsRead : Prop :=
  ∀ (s : State) (f : InFrame),
    (let l := s.cfg.layout.t0
     let p := inPayload 0x00 f
     rowAnswers (.decT0 f) s 0 p (fun r =>
       hasHead r 0 .x10DomiaLiteParrot (rdLE p l.id 4) (rdLE p l.st 2) ∧ r.body = .t0)) ∧
    (let l := s.cfg.layout.t1
     let p := inPayload 0x01 f
     rowAnswers (.decT1 f) s 1 p (fun r => hasHead r 1 .chacon (rdLE p l.id 4) (rdLE p l.st 2) ∧ r.body = .t1)) ∧
    (let l := s.cfg.layout.t15
     let p := inPayload 0x0F f
     rowAnswers (.decT15 f) s 15 p (fun r => hasHead r 15 .jamming (rdLE p l.id 4) (rdLE p l.st 2) ∧ r.body = .t15))

/-- R144, R153, R155: types 3, 12 and 14 give the qualifier beside the Scheme A id and the subtype. -/
def Obligations.QualifierRowsRead : Prop :=
  ∀ (s : State) (f : InFrame),
    (let l := s.cfg.layout.t3
     let p := inPayload 0x03 f
     rowAnswers (.decT3 f) s 3 p (fun r => hasHead r 3 .rts (rdLE p l.id 4) (rdLE p l.st 2) ∧
       ∃ q, r.body = .t3 q ∧ q.toNat = rdLE p l.qualifier 2)) ∧
    (let l := s.cfg.layout.t12
     let p := inPayload 0x0C f
     rowAnswers (.decT12 f) s 12 p (fun r => hasHead r 12 .deprecatedThermostat (rdLE p l.id 4) (rdLE p l.st 2) ∧
       ∃ q, r.body = .t12 q ∧ q.toNat = rdLE p l.qualifier 2)) ∧
    (let l := s.cfg.layout.t14
     let p := inPayload 0x0E f
     rowAnswers (.decT14 f) s 14 p (fun r => hasHead r 14 .fs20 (rdLE p l.id 4) (rdLE p l.st 2) ∧
       ∃ q, r.body = .t14 q ∧ q.toNat = rdLE p l.qualifier 2))

/-- R143: type 2 gives the qualifier and its four status bits at the bound places. -/
def Obligations.VisonicRowReads : Prop :=
  ∀ (s : State) (f : InFrame),
    let l := s.cfg.layout.t2
    let g := s.cfg.flagBit.t2
    let p := inPayload 0x02 f
    rowAnswers (.decT2 f) s 2 p (fun r => hasHead r 2 .visonic (rdLE p l.id 4) (rdLE p l.st 2) ∧
      ∃ q tamper alarm lowbatt alive, r.body = .t2 q tamper alarm lowbatt alive ∧
        q.toNat = rdLE p l.qualifier 2 ∧ tamper.toNat = bitOf q.toNat g.tamper ∧
        alarm.toNat = bitOf q.toNat g.alarm ∧ lowbatt.toNat = bitOf q.toNat g.lowbatt ∧
        alive.toNat = bitOf q.toNat g.alive)

/-- R151, R152: types 10 and 11 give the qualifier and its five status bits, each at its own table's places. -/
def Obligations.X2dRowsRead : Prop :=
  ∀ (s : State) (f : InFrame),
    (let l := s.cfg.layout.t10
     let g := s.cfg.flagBit.t10
     let p := inPayload 0x0A f
     rowAnswers (.decT10 f) s 10 p (fun r => hasHead r 10 .x2d (rdLE p l.id 4) (rdLE p l.st 2) ∧
       ∃ q tamper anomaly lowbatt testassoc domestic,
         r.body = .t10 q tamper anomaly lowbatt testassoc domestic ∧
         q.toNat = rdLE p l.qualifier 2 ∧ tamper.toNat = bitOf q.toNat g.tamper ∧
         anomaly.toNat = bitOf q.toNat g.anomaly ∧ lowbatt.toNat = bitOf q.toNat g.lowbatt ∧
         testassoc.toNat = bitOf q.toNat g.testassoc ∧ domestic.toNat = bitOf q.toNat g.domestic)) ∧
    (let l := s.cfg.layout.t11
     let g := s.cfg.flagBit.t11
     let p := inPayload 0x0B f
     rowAnswers (.decT11 f) s 11 p (fun r => hasHead r 11 .x2d (rdLE p l.id 4) (rdLE p l.st 2) ∧
       ∃ q tamper anomaly lowbatt testassoc domestic,
         r.body = .t11 q tamper anomaly lowbatt testassoc domestic ∧
         q.toNat = rdLE p l.qualifier 2 ∧ tamper.toNat = bitOf q.toNat g.tamper ∧
         anomaly.toNat = bitOf q.toNat g.anomaly ∧ lowbatt.toNat = bitOf q.toNat g.lowbatt ∧
         testassoc.toNat = bitOf q.toNat g.testassoc ∧ domestic.toNat = bitOf q.toNat g.domestic))

/-- R145, R146: types 4 and 5 give the signed temperature, the unsigned humidity and pressure, and lowbatt from the hidden
qualifier, with the Scheme B id. -/
def Obligations.OregonClimateRowsRead : Prop :=
  ∀ (s : State) (f : InFrame),
    (let l := s.cfg.layout.t4
     let p := inPayload 0x04 f
     rowAnswers (.decT4 f) s 4 p (fun r =>
       hasHead r 4 .oregon (65536 * rdLE p l.idPHY 2 + rdLE p l.idChannel 2) (rdLE p l.st 2) ∧
       ∃ humidity lowbatt, r.body = .t4 (signed16 (rdLE p l.temp 2)) humidity lowbatt ∧
         humidity.toNat = rdLE p l.humidity 2 ∧
         lowbatt.toNat = bitOf (rdLE p l.qualifier 2) s.cfg.flagBit.t4)) ∧
    (let l := s.cfg.layout.t5
     let p := inPayload 0x05 f
     rowAnswers (.decT5 f) s 5 p (fun r =>
       hasHead r 5 .oregon (65536 * rdLE p l.idPHY 2 + rdLE p l.idChannel 2) (rdLE p l.st 2) ∧
       ∃ humidity pressure lowbatt, r.body = .t5 (signed16 (rdLE p l.temp 2)) humidity pressure lowbatt ∧
         humidity.toNat = rdLE p l.humidity 2 ∧ pressure.toNat = rdLE p l.pressure 2 ∧
         lowbatt.toNat = bitOf (rdLE p l.qualifier 2) s.cfg.flagBit.t5))

/-- R147, R148, R150: types 6, 7 and 9 give their unsigned measurements and lowbatt, with the Scheme B id. -/
def Obligations.OregonWeatherRowsRead : Prop :=
  ∀ (s : State) (f : InFrame),
    (let l := s.cfg.layout.t6
     let p := inPayload 0x06 f
     rowAnswers (.decT6 f) s 6 p (fun r =>
       hasHead r 6 .oregon (65536 * rdLE p l.idPHY 2 + rdLE p l.idChannel 2) (rdLE p l.st 2) ∧
       ∃ speed direction lowbatt, r.body = .t6 speed direction lowbatt ∧ speed.toNat = rdLE p l.speed 2 ∧
         direction.toNat = rdLE p l.direction 2 ∧
         lowbatt.toNat = bitOf (rdLE p l.qualifier 2) s.cfg.flagBit.t6)) ∧
    (let l := s.cfg.layout.t7
     let p := inPayload 0x07 f
     rowAnswers (.decT7 f) s 7 p (fun r =>
       hasHead r 7 .oregon (65536 * rdLE p l.idPHY 2 + rdLE p l.idChannel 2) (rdLE p l.st 2) ∧
       ∃ light lowbatt, r.body = .t7 light lowbatt ∧ light.toNat = rdLE p l.light 2 ∧
         lowbatt.toNat = bitOf (rdLE p l.qualifier 2) s.cfg.flagBit.t7)) ∧
    (let l := s.cfg.layout.t9
     let p := inPayload 0x09 f
     rowAnswers (.decT9 f) s 9 p (fun r =>
       hasHead r 9 .oregon (65536 * rdLE p l.idPHY 2 + rdLE p l.idChannel 2) (rdLE p l.st 2) ∧
       ∃ totalRain rain lowbatt, r.body = .t9 totalRain rain lowbatt ∧ totalRain.toNat = rdLE p l.totalRain 2 ∧
         rain.toNat = rdLE p l.rain 2 ∧ lowbatt.toNat = bitOf (rdLE p l.qualifier 2) s.cfg.flagBit.t9))

/-- R149: type 8 gives its five unsigned 16-bit values and lowbatt, with the Scheme B id. -/
def Obligations.OwlRowReads : Prop :=
  ∀ (s : State) (f : InFrame),
    let l := s.cfg.layout.t8
    let p := inPayload 0x08 f
    rowAnswers (.decT8 f) s 8 p (fun r =>
      hasHead r 8 .owl (65536 * rdLE p l.idPHY 2 + rdLE p l.idChannel 2) (rdLE p l.st 2) ∧
      ∃ energy power pi1 pi2 pi3 lowbatt, r.body = .t8 energy power pi1 pi2 pi3 lowbatt ∧
        energy.toNat = rdLE p l.energy 2 ∧ power.toNat = rdLE p l.power 2 ∧ pi1.toNat = rdLE p l.pi1 2 ∧
        pi2.toNat = rdLE p l.pi2 2 ∧ pi3.toNat = rdLE p l.pi3 2 ∧
        lowbatt.toNat = bitOf (rdLE p l.qualifier 2) s.cfg.flagBit.t8)

/-- R154: type 13 gives its two 32-bit unsigned counters and its four 16-bit fields, with the Scheme A id. -/
def Obligations.MeteringRowReads : Prop :=
  ∀ (s : State) (f : InFrame),
    let l := s.cfg.layout.t13
    let p := inPayload 0x0D f
    rowAnswers (.decT13 f) s 13 p (fun r => hasHead r 13 .metering (rdLE p l.id 4) (rdLE p l.st 2) ∧
      ∃ contractType setpoint cnt1 cnt2 apparentPower q,
        r.body = .t13 contractType setpoint cnt1 cnt2 apparentPower q ∧
        contractType.toNat = rdLE p l.contractType 2 ∧ setpoint.toNat = rdLE p l.setpoint 2 ∧
        cnt1.toNat = rdLE p l.cnt1 4 ∧ cnt2.toNat = rdLE p l.cnt2 4 ∧
        apparentPower.toNat = rdLE p l.apparentPower 2 ∧ q.toNat = rdLE p l.qualifier 2)

/-- R134, R244: a frame whose infoType is above 15 answers UNKNOWN_TYPE with that byte, however short it is for a layout,
on each of the four rows and on DECODE. -/
def Obligations.UnknownTypesAreReported : Prop :=
  ∀ (s : State) (f : InFrame),
    (∀ low : BitVec 4, exec (.decUnknown10 low f) s =
      .next { s with out := [.event (.unknownType (BitVec.ofNat 8 (16 + low.toNat)))] }) ∧
    (∀ low : BitVec 5, exec (.decUnknown20 low f) s =
      .next { s with out := [.event (.unknownType (BitVec.ofNat 8 (32 + low.toNat)))] }) ∧
    (∀ low : BitVec 6, exec (.decUnknown40 low f) s =
      .next { s with out := [.event (.unknownType (BitVec.ofNat 8 (64 + low.toNat)))] }) ∧
    (∀ low : BitVec 7, exec (.decUnknown80 low f) s =
      .next { s with out := [.event (.unknownType (BitVec.ofNat 8 (128 + low.toNat)))] }) ∧
    (f.fits = true → ∀ t : Byte, 15 < t.toNat →
      exec (.decode (inFrameBytes t f)) s = .next { s with out := [.event (.unknownType t)] })

/-- R135, R157: a reading depends only on the bytes its layout covers, so frames that agree on those give one reading;
under a legal configuration sourceDest and the RF prefix bytes 0 to 3 are not among them. -/
def Obligations.ReadingsIgnoreUncoveredBytes : Prop :=
  ∀ (cfg : Configuration) (t : Fin 16) (f g : InFrame),
    let tb : Byte := BitVec.ofNat 8 t.val
    f.fits = true → g.fits = true →
      (minLenOf cfg t ≤ (inPayload tb f).length → minLenOf cfg t ≤ (inPayload tb g).length →
        (∀ e ∈ spansOf cfg.layout t, ∀ j < e.2,
          byteAt (inPayload tb f) (e.1 + j) = byteAt (inPayload tb g) (e.1 + j)) →
        ∃ r, decodeFrame cfg (inFrameBytes tb f) = .reading r ∧ decodeFrame cfg (inFrameBytes tb g) = .reading r) ∧
      (cfg.legal = true → f.fields = g.fields →
        decodeFrame cfg (inFrameBytes tb f) = decodeFrame cfg (inFrameBytes tb g))

/-- R133, R140, R158: a reading carries the frame's infoType, the family of that type and the body of that type. -/
def Obligations.ReadingsAreTaggedByType : Prop :=
  ∀ (cfg : Configuration) (frame : Bytes) (r : Reading), decodeFrame cfg frame = .reading r →
    r.infoType.val = (byteAt frame 9).toNat ∧ bodyTag r.body = (byteAt frame 9).toNat ∧
      [Family.x10DomiaLiteParrot, .chacon, .visonic, .rts, .oregon, .oregon, .oregon, .oregon, .owl, .oregon, .x2d, .x2d,
        .deprecatedThermostat, .metering, .fs20, .jamming][r.infoType.val]? = some r.family

/-! ### The encoder -/

/-- R202, R205: the six names of every binding have their codes; a name outside them has what the binding gives it, and
none or an unknown name is 0. -/
def Obligations.ProtocolNamesHaveTheirCodes : Prop :=
  ∀ cfg : Configuration,
    protoCode cfg none = 0 ∧ protoCode cfg (some "visonic433") = 1 ∧ protoCode cfg (some "chacon") = 3 ∧
    protoCode cfg (some "dio") = 3 ∧ protoCode cfg (some "rts") = 11 ∧ protoCode cfg (some "somfyrts") = 11 ∧
    protoCode cfg (some "edisio") = 16 ∧
    ∀ n, n ∉ ["visonic433", "chacon", "dio", "rts", "somfyrts", "edisio"] →
      protoCode cfg (some n) = (cfg.protoExtra.lookup n).getD 0

/-- R203, R204: the generic mapping for every protocol but HA_PROTO, and the HA mapping in its place for that one. -/
def Obligations.TokensSelectActions : Prop :=
  ∀ (cfg : Configuration) (pc : Byte) (tok : String),
    (cfg.haProto ≠ some pc →
      (actionOf cfg pc tok = some .off ↔ tok = "0") ∧ (actionOf cfg pc tok = some .on ↔ tok = "1") ∧
      (actionOf cfg pc tok = some .dim ↔ tok = "2") ∧ (actionOf cfg pc tok = some .assoc ↔ tok = "6")) ∧
    (cfg.haProto = some pc →
      (actionOf cfg pc tok = some .off ↔ tok ∈ ["AutoLow", "EcoLow", "ConfortLow"]) ∧
      (actionOf cfg pc tok = some .on ↔ tok ∈ ["Auto", "Eco", "Confort", "Stop", "HorsGel"]) ∧
      actionOf cfg pc tok ≠ some .dim ∧ actionOf cfg pc tok ≠ some .assoc)

/-- R206 to R208: the RTS rule comes first, then the HA rule for the eight HA tokens, whose value is one of 0, 3, 4, 5 and
7 under a legal configuration, then the given dim or 0. -/
def Obligations.DimByteFollowsTheFirstRule : Prop :=
  ∀ (cfg : Configuration) (pc : Byte) (tok : String) (d : Option Byte),
    (pc = 11 → dimByte cfg pc tok d = if tok = "2" then 4 else 0) ∧
    (pc ≠ 11 → cfg.haProto = some pc →
      (tok = "AutoLow" → dimByte cfg pc tok d = cfg.haDim.autoLow) ∧
      (tok = "EcoLow" → dimByte cfg pc tok d = cfg.haDim.ecoLow) ∧
      (tok = "ConfortLow" → dimByte cfg pc tok d = cfg.haDim.confortLow) ∧
      (tok = "Auto" → dimByte cfg pc tok d = cfg.haDim.auto) ∧
      (tok = "Eco" → dimByte cfg pc tok d = cfg.haDim.eco) ∧
      (tok = "Confort" → dimByte cfg pc tok d = cfg.haDim.confort) ∧
      (tok = "Stop" → dimByte cfg pc tok d = cfg.haDim.stop) ∧
      (tok = "HorsGel" → dimByte cfg pc tok d = cfg.haDim.horsGel) ∧
      (cfg.legal = true →
        tok ∈ ["AutoLow", "EcoLow", "ConfortLow", "Auto", "Eco", "Confort", "Stop", "HorsGel"] →
        (dimByte cfg pc tok d).toNat ∈ [0, 3, 4, 5, 7])) ∧
    (pc ≠ 11 →
      (cfg.haProto ≠ some pc ∨
        tok ∉ ["AutoLow", "EcoLow", "ConfortLow", "Auto", "Eco", "Confort", "Stop", "HorsGel"]) →
      dimByte cfg pc tok d = d.getD 0)

/-- R209 to R212: which id codes resolve, and to what: a letter and digits of value n ≥ 1 by the letter formula, digits of
value at most 2^32 − 1 to that value, and nothing else. -/
def Obligations.DeviceIdCodesResolve : Prop :=
  deviceId none = none ∧
  ∀ (code : String) (v : U32), deviceId (some code) = some v ↔
    (∃ l ds, code.toList = l :: ds ∧ 65 ≤ l.toNat ∧ l.toNat ≤ 90 ∧ digits ds ∧ 1 ≤ decimalValue ds ∧
        v.toNat = ((l.toNat - 65) * 16 + decimalValue ds - 1) % 2 ^ 32) ∨
      (digits code.toList ∧ decimalValue code.toList ≤ 4294967295 ∧ v.toNat = decimalValue code.toList)

/-- The 17 bytes of R65 and R214: the constant ones as in the table, the protocol, action and dim bytes at 7, 8 and 13, and
the id at 9 to 12, low byte first. That ENC_FRAME runs on its own and answers the frame is the model's choice (log 4), and so
is its answer for a protocol code above 16, which R76 and R214 give no frame and the decoder refuses. -/
def Obligations.CommandFrameHasItsBytes : Prop :=
  ∀ (s : State) (pc ac : Byte) (id : U32) (dv : Byte),
    ∃ f, exec (.encFrame pc ac id dv) s = .next { s with out := [.frame f] } ∧ f.length = 17 ∧
      f.take 7 = [0x5A, 0x49, 0x01, 0x0C, 0x00, 0x00, 0x00] ∧ byteAt f 7 = pc ∧ byteAt f 8 = ac ∧
      rdLE f 9 4 = id.toNat ∧ byteAt f 13 = dv ∧ f.drop 14 = [0x00, 0x00, 0x00]

/-- R201, R213, R215: ENCODE raises one event for each value that does not resolve, then emits the frame with 0 in its
place, or under STRICT raises ENC_REJECTED and emits none. -/
def Obligations.EncodeAnswers : Prop :=
  ∀ (s : State) (c : Command),
    let pc := protoCode s.cfg c.proto
    let ac := (actionOf s.cfg pc c.token).map (actionCode s.cfg)
    let id := deviceId c.idCode
    let u : List Event := (if pc = 0 then [.encUnresProto] else []) ++ (if ac = none then [.encUnresAction] else []) ++
      (if id = none then [.encUnresId] else [])
    exec (.encode c) s = .next { s with out := u.map .event ++
      [if s.cfg.strict = true ∧ u ≠ [] then .event .encRejected
       else .frame (assemble pc (ac.getD 0) (id.getD 0) (dimByte s.cfg pc c.token c.dimIn))] }

/-- R252: ENCODE's events stand in code order without repeats, and a frame stands only at the end. -/
def Obligations.EncodeEventsStandInCodeOrder : Prop :=
  ∀ (s t : State) (c : Command), exec (.encode c) s = .next t →
    (eventCodes t.out).Pairwise (· < ·) ∧
      (∀ n f, t.out[n]? = some (.frame f) → n + 1 = t.out.length) ∧
      (.event .encRejected ∈ t.out ↔ s.cfg.strict = true ∧
        (.event .encUnresProto ∈ t.out ∨ .event .encUnresAction ∈ t.out ∨ .event .encUnresId ∈ t.out))

/-- R201, R216 to R219: the row that a command's action selects answers as ENCODE of the command does (log 7). -/
def Obligations.ActionRowsMeanEncode : Prop :=
  ∀ (s : State) (conn : Nat) (c : Command) (i : Instr),
    decode s.cfg (.txn conn 0b11 (.command c)) = .ok i → exec i s = exec (.encode c) s

/-- R75, R216 to R219: which tokens select each action row, and what the row answers. That the ENCODE request decodes to
the action's row is the model's reading of the opcode table (log 7). The default codes 0, 2 and 6 are R75's, which marks
them general knowledge (log 18). -/
def Obligations.ActionRowsAnswer : Prop :=
  (State.reset.cfg.actionCode.off = 0x00 ∧ State.reset.cfg.actionCode.dim = 0x02 ∧
    State.reset.cfg.actionCode.assoc = 0x06) ∧
  ∀ (s : State) (conn : Nat) (c : Command),
    let pc := protoCode s.cfg c.proto
    let req : Request := .txn conn 0b11 (.command c)
    ((s.cfg.haProto ≠ some pc ∧ c.token = "0" ∨
        s.cfg.haProto = some pc ∧ c.token ∈ ["AutoLow", "EcoLow", "ConfortLow"]) →
      decode s.cfg req = .ok (.encOff c) ∧ actionRowAnswers (.encOff c) s c s.cfg.actionCode.off) ∧
    ((s.cfg.haProto ≠ some pc ∧ c.token = "1" ∨
        s.cfg.haProto = some pc ∧ c.token ∈ ["Auto", "Eco", "Confort", "Stop", "HorsGel"]) →
      decode s.cfg req = .ok (.encOn c) ∧ actionRowAnswers (.encOn c) s c 0x01) ∧
    (s.cfg.haProto ≠ some pc ∧ c.token = "2" →
      decode s.cfg req = .ok (.encDim c) ∧ actionRowAnswers (.encDim c) s c s.cfg.actionCode.dim) ∧
    (s.cfg.haProto ≠ some pc ∧ c.token = "6" →
      decode s.cfg req = .ok (.encAssoc c) ∧ actionRowAnswers (.encAssoc c) s c s.cfg.actionCode.assoc)

/-- R220: a frame that ENCODE emits begins with the marker, declares 12 and is 17 bytes long; pushed alone into an empty
instance, it comes out unchanged; decoded, it is of unknown type when the low byte of its id is above 15, and else a reading
or SHORT. -/
def Obligations.CommandFramesLoopBack : Prop :=
  ∀ (s t u : State) (c : Command) (f : Bytes) (k : Nat),
    exec (.encode c) s = .next t → .frame f ∈ t.out →
    u.instanceAt k = Reassembler.fresh → exceedsBatch u.cfg 17 = false → exceedsCap u.cfg 17 = false →
      (f.length = 17 ∧ byteAt f 0 = 0x5A ∧ byteAt f 1 = 0x49 ∧ rdLE f 3 2 = 12) ∧
      (∃ v, exec (.push k f) u = .next v ∧ v.out = [.frame f] ∧ v.instanceAt k = Reassembler.fresh) ∧
      (15 < (byteAt f 9).toNat → exec (.decode f) u = .next { u with out := [.event (.unknownType (byteAt f 9))] }) ∧
      ((byteAt f 9).toNat ≤ 15 → ∃ o, exec (.decode f) u = .next { u with out := [o] } ∧
        (o = .event (.malformed .short) ∨ ∃ r, o = .reading r))

/-- R76: under a legal configuration byte 7 of every command frame is the code of 1 to 16 of a resolved protocol name, and 0
for an unresolved one. -/
def Obligations.ProtocolByteStaysInRange : Prop :=
  ∀ (s t : State) (c : Command) (f : Bytes), s.cfg.legal = true → exec (.encode c) s = .next t → .frame f ∈ t.out →
    (∀ n code, c.proto = some n → protoLookup s.cfg n = some code →
      byteAt f 7 = code ∧ 1 ≤ code.toNat ∧ code.toNat ≤ 16) ∧
    ((∀ n, c.proto = some n → protoLookup s.cfg n = none) → byteAt f 7 = 0)

/-! ### Presentation -/

/-- R180: the decimal form is digits of the number's value with no leading zero, and the reference is the infoType and the
id in that form with a hyphen between. -/
def Obligations.ReferenceIsDecimal : Prop :=
  (∀ n : Nat, digits (dec n).toList ∧ decimalValue (dec n).toList = n ∧
      ((dec n).toList.head? = some '0' → (dec n).toList = ['0'])) ∧
    ∀ r : Reading, (reference r).toList = (dec r.infoType.val).toList ++ '-' :: (dec r.id.toNat).toList

/-- R181: a temperature's text is its sign, the whole part and exactly one decimal. -/
def Obligations.TemperatureHasOneDecimal : Prop :=
  ∀ v : Int, ∃ (whole : List Char) (tenth : Char),
    (tempText v).toList = (if v < 0 then ['-'] else []) ++ whole ++ ['.', tenth] ∧
    digits whole ∧ decimalValue whole = v.natAbs / 10 ∧ (whole.head? = some '0' → whole = ['0']) ∧
    digits [tenth] ∧ decimalValue [tenth] = v.natAbs % 10
end

