-- ==== Sys2Proof/Laws/State.lean ====
section
/-! SUPPORT. The small lemmas of the state's updates (one per field per update), of the instances' memory and of the
fetch. -/

namespace Sys2Proof.Machine

/-! ### One lemma per field per update -/

@[simp] theorem answer_cfg (s : State) (o : List Output) : (s.answer o).cfg = s.cfg := rfl
@[simp] theorem answer_memory (s : State) (o : List Output) : (s.answer o).memory = s.memory := rfl
@[simp] theorem answer_requests (s : State) (o : List Output) : (s.answer o).requests = s.requests := rfl
@[simp] theorem answer_out (s : State) (o : List Output) : (s.answer o).out = o := rfl
@[simp] theorem answer_instanceAt (s : State) (o : List Output) (k : Nat) :
    (s.answer o).instanceAt k = s.instanceAt k := rfl
@[simp] theorem answer_bufferByte (s : State) (o : List Output) (k a : Nat) :
    (s.answer o).bufferByte k a = s.bufferByte k a := rfl

@[simp] theorem withRequests_cfg (s : State) (rs : List Request) : (s.withRequests rs).cfg = s.cfg := rfl
@[simp] theorem withRequests_memory (s : State) (rs : List Request) : (s.withRequests rs).memory = s.memory := rfl
@[simp] theorem withRequests_requests (s : State) (rs : List Request) : (s.withRequests rs).requests = rs := rfl
@[simp] theorem withRequests_out (s : State) (rs : List Request) : (s.withRequests rs).out = s.out := rfl
@[simp] theorem withRequests_instanceAt (s : State) (rs : List Request) (k : Nat) :
    (s.withRequests rs).instanceAt k = s.instanceAt k := rfl

@[simp] theorem setInstance_cfg (s : State) (k : Nat) (x : Reassembler) : (s.setInstance k x).cfg = s.cfg := rfl
@[simp] theorem setInstance_memory (s : State) (k : Nat) (x : Reassembler) :
    (s.setInstance k x).memory = s.memory.write k x := rfl
@[simp] theorem setInstance_requests (s : State) (k : Nat) (x : Reassembler) :
    (s.setInstance k x).requests = s.requests := rfl
@[simp] theorem setInstance_out (s : State) (k : Nat) (x : Reassembler) : (s.setInstance k x).out = s.out := rfl

@[simp] theorem boot_cfg (c : Configuration) : (State.boot c).cfg = c := rfl
@[simp] theorem boot_memory (c : Configuration) : (State.boot c).memory = [] := rfl
@[simp] theorem boot_requests (c : Configuration) : (State.boot c).requests = [] := rfl
@[simp] theorem boot_out (c : Configuration) : (State.boot c).out = [] := rfl
@[simp] theorem boot_instanceAt (c : Configuration) (k : Nat) : (State.boot c).instanceAt k = Reassembler.fresh := rfl

@[simp] theorem fresh_buffer : Reassembler.fresh.buffer = [] := rfl
@[simp] theorem fresh_fault : Reassembler.fresh.fault = false := rfl

/-! ### Fetch -/

theorem fetch_nil {s : State} (h : s.requests = []) : s.fetch = none := by simp [State.fetch, h]

theorem fetch_cons {s : State} {r : Request} {rest : List Request} (h : s.requests = r :: rest) :
    s.fetch = some (r, s.withRequests rest) := by simp [State.fetch, h]

/-! ### The instances' memory -/

theorem read_insert_same (k : Nat) (x : Reassembler) (m : Memory) (h : ∀ e ∈ m, e.1 ≠ k) :
    Memory.read (Memory.insert k x m) k = x := by
  induction m with
  | nil => simp [Memory.insert, Memory.read]
  | cons e rest ih =>
    obtain ⟨j, y⟩ := e
    have hj : j ≠ k := h (j, y) (by simp)
    by_cases hlt : k < j
    · simp [Memory.insert, Memory.read, hlt]
    · simp [Memory.insert, Memory.read, hlt, hj, ih (fun e he => h e (by simp [he]))]

theorem read_insert_other {k j : Nat} (x : Reassembler) (m : Memory) (h : j ≠ k) :
    Memory.read (Memory.insert k x m) j = Memory.read m j := by
  induction m with
  | nil => simp [Memory.insert, Memory.read, Ne.symm h]
  | cons e rest ih =>
    obtain ⟨i, y⟩ := e
    by_cases hlt : k < i
    · simp [Memory.insert, Memory.read, hlt, Ne.symm h]
    · simp [Memory.insert, Memory.read, hlt, ih]

theorem read_filter_same (m : Memory) (k : Nat) :
    Memory.read (m.filter (fun e => e.1 ≠ k)) k = Reassembler.fresh := by
  induction m with
  | nil => rfl
  | cons e rest ih =>
    obtain ⟨i, y⟩ := e
    by_cases hi : i = k <;> simp_all [Memory.read]

theorem read_filter_other (m : Memory) {k j : Nat} (h : j ≠ k) :
    Memory.read (m.filter (fun e => e.1 ≠ k)) j = Memory.read m j := by
  induction m with
  | nil => rfl
  | cons e rest ih =>
    obtain ⟨i, y⟩ := e
    by_cases hi : i = k
    · subst hi; simp_all [Memory.read, Ne.symm h]
    · simp_all [Memory.read]

/-- A write is read back, and every other connection reads as before. -/
theorem read_write (m : Memory) (k j : Nat) (x : Reassembler) :
    Memory.read (m.write k x) j = if j = k then x else m.read j := by
  unfold Memory.write
  by_cases hj : j = k
  · subst hj
    by_cases hx : x = Reassembler.fresh
    · simp only [hx, if_true]; exact read_filter_same m j
    · simp only [hx, if_false, if_true]
      exact read_insert_same j x _ (fun e he => by simpa using (List.mem_filter.mp he).2)
  · by_cases hx : x = Reassembler.fresh
    · simp only [hx, if_true, hj, if_false]; exact read_filter_other m hj
    · simp only [hx, if_false, hj]
      rw [read_insert_other x _ hj]; exact read_filter_other m hj

@[simp] theorem setInstance_instanceAt_same (s : State) (k : Nat) (x : Reassembler) :
    (s.setInstance k x).instanceAt k = x := by simp [State.instanceAt, State.setInstance, read_write]

theorem setInstance_instanceAt_other (s : State) {k j : Nat} (x : Reassembler) (h : j ≠ k) :
    (s.setInstance k x).instanceAt j = s.instanceAt j := by
  simp [State.instanceAt, State.setInstance, read_write, h]

theorem setInstance_instanceAt (s : State) (k j : Nat) (x : Reassembler) :
    (s.setInstance k x).instanceAt j = if j = k then x else s.instanceAt j := by
  simp [State.instanceAt, State.setInstance, read_write]

/-! ### The canonical form -/

theorem wf_cons (k : Nat) (x : Reassembler) (m : Memory) :
    Memory.wf ((k, x) :: m) = true ↔
      x ≠ Reassembler.fresh ∧ (∀ e ∈ m, k < e.1) ∧ Memory.wf m = true := by
  simp [Memory.wf, and_assoc]

theorem wf_filter (m : Memory) (p : Nat × Reassembler → Bool) (h : Memory.wf m = true) :
    Memory.wf (m.filter p) = true := by
  induction m with
  | nil => rfl
  | cons e rest ih =>
    obtain ⟨j, y⟩ := e
    obtain ⟨hy, hlt, hr⟩ := (wf_cons j y rest).mp h
    by_cases hp : p (j, y) = true
    · rw [List.filter_cons_of_pos hp, wf_cons]
      exact ⟨hy, fun e he => hlt e (List.mem_filter.mp he).1, ih hr⟩
    · rw [List.filter_cons_of_neg hp]; exact ih hr

theorem mem_insert {k : Nat} {x : Reassembler} {m : Memory} {e : Nat × Reassembler} :
    e ∈ Memory.insert k x m ↔ e = (k, x) ∨ e ∈ m := by
  induction m with
  | nil => simp [Memory.insert]
  | cons a rest ih =>
    obtain ⟨j, y⟩ := a
    by_cases hlt : k < j
    · simp [Memory.insert, hlt]
    · simp only [Memory.insert, hlt, if_false, List.mem_cons, ih]; tauto

theorem wf_insert (k : Nat) (x : Reassembler) (m : Memory) (hx : x ≠ Reassembler.fresh)
    (hk : ∀ e ∈ m, e.1 ≠ k) (h : Memory.wf m = true) : Memory.wf (Memory.insert k x m) = true := by
  induction m with
  | nil => simp [Memory.insert, Memory.wf, hx]
  | cons a rest ih =>
    obtain ⟨j, y⟩ := a
    obtain ⟨hy, hlt, hr⟩ := (wf_cons j y rest).mp h
    by_cases hkj : k < j
    · simp only [Memory.insert, hkj, if_true]
      refine (wf_cons _ _ _).mpr ⟨hx, ?_, h⟩
      intro e he
      rcases List.mem_cons.mp he with rfl | he
      · exact hkj
      · exact lt_trans hkj (hlt e he)
    · have hjk : j ≠ k := hk (j, y) (by simp)
      simp only [Memory.insert, hkj, if_false]
      refine (wf_cons _ _ _).mpr ⟨hy, ?_, ih (fun e he => hk e (by simp [he])) hr⟩
      intro e he
      rcases mem_insert.mp he with rfl | he
      · show j < k; omega
      · exact hlt e he

/-- A write keeps the canonical form. -/
theorem write_wf (m : Memory) (k : Nat) (x : Reassembler) (h : m.wf = true) : (m.write k x).wf = true := by
  unfold Memory.write
  by_cases hx : x = Reassembler.fresh
  · simp only [hx, if_true]; exact wf_filter m _ h
  · simp only [hx, if_false]
    exact wf_insert k x _ hx (fun e he => by simpa using (List.mem_filter.mp he).2) (wf_filter m _ h)

/-- Every entry of a written memory is the one written or was there before. -/
theorem mem_write {m : Memory} {k : Nat} {x : Reassembler} {e : Nat × Reassembler} (h : e ∈ m.write k x) :
    e = (k, x) ∨ e ∈ m := by
  unfold Memory.write at h
  by_cases hx : x = Reassembler.fresh
  · simp only [hx, if_true] at h; exact .inr (List.mem_filter.mp h).1
  · simp only [hx, if_false] at h
    rcases mem_insert.mp h with h | h
    · exact .inl h
    · exact .inr (List.mem_filter.mp h).1

/-- What a connection reads is a listed instance or a fresh one. -/
theorem read_mem_or_fresh (m : Memory) (k : Nat) :
    (k, m.read k) ∈ m ∨ m.read k = Reassembler.fresh := by
  induction m with
  | nil => exact .inr rfl
  | cons e rest ih =>
    obtain ⟨j, y⟩ := e
    by_cases hj : j = k
    · subst hj; simp [Memory.read]
    · rcases ih with h | h
      · left; simp [Memory.read, hj, h]
      · right; simp [Memory.read, hj, h]

/-- The memory after reset is in canonical form. -/
theorem reset_memory_wf : State.reset.memory.wf = true := rfl

end Sys2Proof.Machine
end

