-- ==== Sys2Proof/Laws/Scan.lean ====
section
/-! SUPPORT. What the reassembler's shared operations do, said once: the marker search (R104), one pass of the scan
(R105 to R108), the scan as the loop of R102, and PUSH on an instance (R100). -/

namespace Sys2Proof.Machine

/-! ### Reading bytes -/

theorem byteAt_append_left {s t : Bytes} {i : Nat} (h : i < s.length) : byteAt (s ++ t) i = byteAt s i := by
  simp [byteAt, List.getD, List.getElem?_append_left h]

theorem byteAt_drop (s : Bytes) (n i : Nat) : byteAt (s.drop n) i = byteAt s (n + i) := by
  simp [byteAt, List.getD, List.getElem?_drop]

theorem byteAt_take {s : Bytes} {n i : Nat} (h : i < n) : byteAt (s.take n) i = byteAt s i := by
  simp [byteAt, List.getD, h]

/-- rdLE reads only the n bytes from offset o on. -/
theorem rdLE_congr (s t : Bytes) (n : Nat) :
    ∀ o o' : Nat, (∀ i < n, byteAt s (o + i) = byteAt t (o' + i)) → rdLE s o n = rdLE t o' n := by
  induction n with
  | zero => intros; rfl
  | succ n ih =>
    intro o o' h
    have h0 := h 0 (by omega)
    have hr := ih (o + 1) (o' + 1) (fun i hi => by
      have := h (i + 1) (by omega)
      rwa [show o + (i + 1) = o + 1 + i by omega, show o' + (i + 1) = o' + 1 + i by omega] at this)
    simp only [Nat.add_zero] at h0
    simp [rdLE, h0, hr]

theorem rdLE_drop (s : Bytes) (d o n : Nat) : rdLE (s.drop d) o n = rdLE s (d + o) n :=
  rdLE_congr _ _ n o (d + o) (fun i _ => by rw [byteAt_drop, Nat.add_assoc])

theorem rdLE_append_left {s t : Bytes} {o n : Nat} (h : o + n ≤ s.length) : rdLE (s ++ t) o n = rdLE s o n :=
  rdLE_congr _ _ n o o (fun _ _ => byteAt_append_left (by omega))

theorem rdLE_take {s : Bytes} {m o n : Nat} (h : o + n ≤ m) : rdLE (s.take m) o n = rdLE s o n :=
  rdLE_congr _ _ n o o (fun _ _ => byteAt_take (by omega))

theorem rdLE_lt (s : Bytes) (n : Nat) : ∀ o, rdLE s o n < 256 ^ n := by
  induction n with
  | zero => intro o; simp [rdLE]
  | succ n ih =>
    intro o
    have h1 := (byteAt s o).isLt
    have h2 := ih (o + 1)
    simp only [rdLE, pow_succ]
    omega

/-! ### The marker search -/

theorem byteAt_cons_succ (a : Byte) (s : Bytes) (i : Nat) : byteAt (a :: s) (i + 1) = byteAt s i := by
  simp [byteAt]

/-- FINDMARKER answers the least marker offset (R104). -/
theorem findMarker_eq_some (b : Bytes) : ∀ i, findMarker b = some i ↔ firstMarkerAt b i := by
  induction b with
  | nil => intro i; simp [findMarker, firstMarkerAt, markerAt]
  | cons a rest ih =>
    cases rest with
    | nil => intro i; simp [findMarker, firstMarkerAt, markerAt]
    | cons c r =>
      have hs : ∀ i, markerAt (a :: c :: r) (i + 1) ↔ markerAt (c :: r) i := by
        intro i
        simp only [markerAt, List.length_cons, byteAt_cons_succ]
        exact and_congr_left (fun _ => by omega)
      have h0 : markerAt (a :: c :: r) 0 ↔ a = sync1 ∧ c = sync2 := by
        simp [markerAt, byteAt]
      intro i
      by_cases hm : a = sync1 ∧ c = sync2
      · simp only [findMarker, hm, and_self, if_true, Option.some.injEq]
        constructor
        · rintro rfl; exact ⟨h0.mpr hm |>.imp id (fun h => by simpa [hm.1, hm.2] using h), by omega⟩
        · rintro ⟨_, h⟩
          by_contra hne
          refine h 0 (by omega) ?_
          have := h0.mpr hm
          simpa [hm.1, hm.2] using this
      · simp only [findMarker, hm, if_false]
        cases i with
        | zero => simp [h0, hm]
        | succ i =>
          unfold firstMarkerAt
          rw [hs]
          simp only [Option.map_eq_some_iff]
          constructor
          · rintro ⟨k, hk, hki⟩
            have : k = i := by omega
            subst this
            obtain ⟨h1, h2⟩ := (ih k).mp hk
            refine ⟨h1, fun j hj => ?_⟩
            cases j with
            | zero => rwa [h0]
            | succ j => rw [hs]; exact h2 j (by omega)
          · rintro ⟨h1, h2⟩
            exact ⟨i, (ih i).mpr ⟨h1, fun j hj => by have := h2 (j + 1) (by omega); rwa [hs] at this⟩, rfl⟩

/-- FINDMARKER answers none exactly when there is no marker (R104). -/
theorem findMarker_eq_none (b : Bytes) : findMarker b = none ↔ ∀ i, ¬ markerAt b i := by
  constructor
  · intro h i hi
    classical
    have : ∃ i, markerAt b i := ⟨i, hi⟩
    have hs := (findMarker_eq_some b (Nat.find this)).mpr ⟨Nat.find_spec this, fun j hj => Nat.find_min this hj⟩
    rw [h] at hs; cases hs
  · intro h
    cases hf : findMarker b with
    | none => rfl
    | some i => exact absurd ((findMarker_eq_some b i).mp hf).1 (h i)

/-- A marker that is found stays the first one when bytes are appended. -/
theorem findMarker_append {b : Bytes} {i : Nat} (t : Bytes) (h : findMarker b = some i) :
    findMarker (b ++ t) = some i := by
  obtain ⟨⟨hl, h1, h2⟩, hmin⟩ := (findMarker_eq_some b i).mp h
  refine (findMarker_eq_some _ i).mpr ⟨⟨by simp; omega, ?_, ?_⟩, fun j hj hm => hmin j hj ?_⟩
  · rwa [byteAt_append_left (by omega)]
  · rwa [byteAt_append_left (by omega)]
  · obtain ⟨_, g1, g2⟩ := hm
    rw [byteAt_append_left (by omega)] at g1 g2
    exact ⟨by omega, g1, g2⟩

/-! ### One pass of the scan -/

theorem length_slice (b : Bytes) {x y : Nat} (hy : y ≤ b.length) : (slice b x y).length = y - x := by
  simp only [slice, List.length_take, List.length_drop]; omega

theorem slice_to_end (b : Bytes) (x : Nat) : slice b x b.length = b.drop x := by
  simp only [slice]; exact List.take_of_length_le (by simp)

/-- Everything a pass that cuts out a frame does (R104, R107, R108): the buffer is the garbage in front of the first
marker, the frame and the rest, and the frame is as long as it declares. -/
theorem scanPass_inr {b f rest : Bytes} (h : scanPass b = .inr (f, rest)) :
    ∃ i, findMarker b = some i ∧ b = b.take i ++ f ++ rest ∧ f.length = hdr + rdLE b (i + 3) 2 ∧
      frameOk f = true ∧ rest.length + 5 ≤ b.length := by
  unfold scanPass at h
  split at h
  · split at h <;> cases h
  · rename_i i hi
    split at h
    · cases h
    · rename_i h1
      simp only at h
      split at h
      · cases h
      · rename_i h2
        obtain ⟨rfl, rfl⟩ : slice b i (i + hdr + rdLE b (i + 3) 2) = f ∧
            slice b (i + hdr + rdLE b (i + 3) 2) b.length = rest := by simpa using h
        obtain ⟨⟨hl, m1, m2⟩, hmin⟩ := (findMarker_eq_some b i).mp hi
        simp only [hdr] at *
        have hlen := length_slice b (x := i) (y := i + 5 + rdLE b (i + 3) 2) (by omega)
        refine ⟨i, hi, ?_, by omega, ?_, ?_⟩
        · rw [slice_to_end, slice]
          have e : i + 5 + rdLE b (i + 3) 2 - i = 5 + rdLE b (i + 3) 2 := by omega
          rw [e, show i + 5 + rdLE b (i + 3) 2 = i + (5 + rdLE b (i + 3) 2) by omega, ← List.drop_drop,
            List.append_assoc, List.take_append_drop, List.take_append_drop]
        · have key : ∀ j, j < 5 → byteAt (slice b i (i + 5 + rdLE b (i + 3) 2)) j = byteAt b (i + j) := by
            intro j hj
            rw [slice, byteAt_take (by omega), byteAt_drop]
          have hd : declaredLen (slice b i (i + 5 + rdLE b (i + 3) 2)) = rdLE b (i + 3) 2 := by
            refine rdLE_congr _ _ 2 3 (i + 3) (fun j hj => ?_)
            rw [key (3 + j) (by omega), Nat.add_assoc]
          have k0 := key 0 (by omega)
          have k1 := key 1 (by omega)
          simp only [Nat.add_zero] at k0
          simp only [frameOk, hd, hlen, k0, k1, m1, m2, hdr, decide_true, Bool.and_true, Bool.and_eq_true,
            decide_eq_true_eq]
          omega
        · rw [slice_to_end, List.length_drop]; omega

/-- Everything a pass that ends the scan does (R105 to R107): it drops a long buffer with no marker, or keeps the buffer,
which is then stable. -/
theorem scanPass_inl {b left : Bytes} {outs : List Output} (h : scanPass b = .inl (outs, left)) :
    (findMarker b = none ∧ desyncThreshold < b.length ∧ outs = [.event (.desync b.length)] ∧ left = []) ∨
      (outs = [] ∧ left = b ∧ (framingOf b).isSome = true) := by
  unfold scanPass at h
  split at h
  · rename_i hn
    split at h
    · rename_i hgt
      cases h; exact .inl ⟨hn, hgt, rfl, rfl⟩
    · rename_i hle
      cases h
      refine .inr ⟨rfl, rfl, ?_⟩
      simp only [framingOf, hn]
      split
      · rfl
      · rw [if_pos (by omega)]; rfl
  · rename_i i hi
    split at h
    · rename_i h1
      cases h
      exact .inr ⟨rfl, rfl, by simp [framingOf, hi, h1]⟩
    · rename_i h1
      simp only at h
      split at h
      · rename_i h2
        cases h
        exact .inr ⟨rfl, rfl, by simp [framingOf, hi, h1, h2]⟩
      · cases h

/-- A scan of a stable buffer returns at once (R116). -/
theorem scanPass_of_stable {b : Bytes} (h : (framingOf b).isSome = true) : scanPass b = .inl ([], b) := by
  unfold framingOf at h
  unfold scanPass
  cases hf : findMarker b with
  | none =>
    simp only [hf] at h ⊢
    by_cases hgt : desyncThreshold < b.length
    · have h0 : ¬ b.length = 0 := by omega
      have h1 : ¬ b.length ≤ desyncThreshold := by omega
      rw [if_neg h0, if_neg h1] at h
      cases h
    · rw [if_neg hgt]
  | some i =>
    simp only [hf] at h ⊢
    by_cases h1 : b.length < i + hdr
    · simp [h1]
    · by_cases h2 : b.length < i + hdr + rdLE b (i + 3) 2
      · simp [h1, h2]
      · simp [h1, h2] at h

theorem framingOf_nil : framingOf [] = some .empty := rfl

/-- Without a marker a buffer is stable up to the threshold (R24, R105). -/
theorem framingOf_isSome_of_none {b : Bytes} (h : findMarker b = none) :
    (framingOf b).isSome = true ↔ b.length ≤ 64 := by
  have e : framingOf b =
      if b.length = 0 then some .empty else if b.length ≤ desyncThreshold then some .hunt else none := by
    unfold framingOf; rw [h]
  rw [e]
  by_cases h0 : b.length = 0
  · rw [if_pos h0]; simp [h0]
  · rw [if_neg h0]
    by_cases h1 : b.length ≤ desyncThreshold
    · rw [if_pos h1]; exact ⟨fun _ => h1, fun _ => rfl⟩
    · rw [if_neg h1]; exact ⟨fun h => Bool.noConfusion h, fun h => absurd h h1⟩

/-- With a marker a buffer is stable as long as the frame there is incomplete (R24, R106, R107). -/
theorem framingOf_isSome_of_some {b : Bytes} {i : Nat} (h : findMarker b = some i) :
    (framingOf b).isSome = true ↔ b.length < i + 5 + rdLE b (i + 3) 2 := by
  have e : framingOf b = if b.length < i + hdr then some .waitHdr
      else if b.length < i + hdr + rdLE b (i + 3) 2 then some .waitBody else none := by
    unfold framingOf; rw [h]
  rw [e]
  by_cases h0 : b.length < i + hdr
  · rw [if_pos h0]
    have h0' : b.length < i + 5 := h0
    exact ⟨fun _ => by omega, fun _ => rfl⟩
  · rw [if_neg h0]
    by_cases h1 : b.length < i + hdr + rdLE b (i + 3) 2
    · rw [if_pos h1]; exact ⟨fun _ => h1, fun _ => rfl⟩
    · rw [if_neg h1]; exact ⟨fun h => Bool.noConfusion h, fun h => absurd h h1⟩

/-- What a well-formed frame of the stream is (R112). -/
theorem frameOk_iff (f : Bytes) : frameOk f = true ↔
    5 ≤ f.length ∧ byteAt f 0 = sync1 ∧ byteAt f 1 = sync2 ∧ f.length = 5 + declaredLen f := by
  simp only [frameOk, Bool.and_eq_true, decide_eq_true_eq]
  rw [and_assoc, and_assoc]
  exact Iff.rfl

/-! ### The scan -/

/-- More passes than there are bytes change nothing. -/
theorem scanFuel_more (b : Bytes) : ∀ n, b.length < n → scanFuel n b = scanFuel (b.length + 1) b := by
  induction hl : b.length using Nat.strong_induction_on generalizing b with
  | _ m ih =>
    intro n hn
    obtain ⟨n, rfl⟩ : ∃ k, n = k + 1 := ⟨n - 1, by omega⟩
    simp only [scanFuel]
    cases hp : scanPass b with
    | inl r => rfl
    | inr p =>
      obtain ⟨f, rest⟩ := p
      obtain ⟨_, _, _, _, _, hle⟩ := scanPass_inr hp
      simp only
      rw [ih rest.length (by omega) rest rfl n (by omega), ih rest.length (by omega) rest rfl m (by omega)]

/-- SCAN is the loop of R102: a pass that ends it, or a frame and the scan of what remains. -/
theorem scan_eq (b : Bytes) :
    scan b = match scanPass b with
      | .inl r => r
      | .inr (f, rest) => (.frame f :: (scan rest).1, (scan rest).2) := by
  conv_lhs => unfold scan scanFuel
  cases hp : scanPass b with
  | inl r => rfl
  | inr p =>
    obtain ⟨f, rest⟩ := p
    obtain ⟨_, _, _, _, _, hle⟩ := scanPass_inr hp
    simp only
    rw [scanFuel_more rest b.length (by omega)]
    rfl

theorem scan_of_stop {b : Bytes} {r : List Output × Bytes} (h : scanPass b = .inl r) : scan b = r := by
  rw [scan_eq, h]

theorem scan_of_frame {b f rest : Bytes} (h : scanPass b = .inr (f, rest)) :
    scan b = (.frame f :: (scan rest).1, (scan rest).2) := by
  conv_lhs => rw [scan_eq, h]

/-- Induction along the passes of a scan. -/
theorem scan_induction (motive : Bytes → Prop)
    (stop : ∀ b r, scanPass b = .inl r → motive b)
    (frame : ∀ b f rest, scanPass b = .inr (f, rest) → motive rest → motive b) (b : Bytes) : motive b := by
  induction hl : b.length using Nat.strong_induction_on generalizing b with
  | _ m ih =>
    cases hp : scanPass b with
    | inl r => exact stop b r hp
    | inr p =>
      obtain ⟨f, rest⟩ := p
      obtain ⟨_, _, _, _, _, hle⟩ := scanPass_inr hp
      exact frame b f rest hp (ih rest.length (by omega) rest rfl)

theorem scan_of_stable {b : Bytes} (h : (framingOf b).isSome = true) : scan b = ([], b) :=
  scan_of_stop (scanPass_of_stable h)

/-- A scan that puts out nothing leaves the buffer as it was. -/
theorem scan_of_silent {b : Bytes} (h : (scan b).1 = []) : (scan b).2 = b := by
  cases hp : scanPass b with
  | inl r =>
    rw [scan_of_stop hp] at h ⊢
    rcases scanPass_inl hp with ⟨_, _, hd, _⟩ | ⟨_, hk, _⟩
    · simp [hd] at h
    · exact hk
  | inr r => simp [scan_of_frame hp] at h

/-! ### PUSH on an instance -/

/-- Everything PUSH can do to an instance (R100): nothing on a faulted one, the OVERFLOW fault, or the append and the
scan. -/
theorem pushInto_cases (cfg : Configuration) (x : Reassembler) (s : Bytes) :
    (x.fault = true ∧ pushInto cfg x s = (x, [.event (.overflow 0)])) ∨
    (x.fault = false ∧ exceedsCap cfg (x.buffer.length + s.length) = true ∧
      pushInto cfg x s = ({ x with fault := true }, [.event (.overflow (x.buffer.length + s.length))])) ∨
    (x.fault = false ∧ exceedsCap cfg (x.buffer.length + s.length) = false ∧
      pushInto cfg x s = ({ x with buffer := (scan (x.buffer ++ s)).2 }, (scan (x.buffer ++ s)).1)) := by
  unfold pushInto
  cases hf : x.fault
  · cases hc : exceedsCap cfg (x.buffer.length + s.length)
    · right; right; simp
    · right; left; simp [takeOverflow]
  · left; simp

/-- PUSH answers a next state exactly when MAX_BATCH is kept, and then this one (R100). -/
theorem execPush_eq_next {conn : Nat} {batch : Bytes} {s t : State} :
    execPush conn batch s = .next t ↔
      exceedsBatch s.cfg batch.length = false ∧
      t = (s.setInstance conn (pushInto s.cfg (s.instanceAt conn) batch).1).answer
            (pushInto s.cfg (s.instanceAt conn) batch).2 := by
  unfold execPush
  cases exceedsBatch s.cfg batch.length <;> simp [eq_comm]

end Sys2Proof.Machine
end

