-- ==== Sys2Proof/Laws/Codec.lean ====
section
/-! SUPPORT. What the decoder's shared operations do, said once: the reading of a frame's infoType (R60 to R63), the
selection of the DEC rows (R73, R74) and of the ENC rows (R203, R204). -/

namespace Sys2Proof

open Sys2Proof.Machine

theorem ofNat8_length_bytes (n : Nat) (h : n ≤ 65535) :
    (BitVec.ofNat 8 n).toNat + 256 * (BitVec.ofNat 8 (n / 256)).toNat = n := by
  simp only [BitVec.toNat_ofNat]; omega

/-- A frame written with an infoType is read with that infoType. -/
theorem discriminant_inFrameBytes (t : Byte) (f : InFrame) (h : f.fits = true) :
    discriminant (inFrameBytes t f) = some (t, f) := by
  have hl : rfPrefixLen + f.fields.length ≤ 65535 := by simpa [InFrame.fits] using h
  exact if_pos ⟨rfl, rfl, (ofNat8_length_bytes _ hl).symm⟩

/-- A frame that is read with an infoType is the one written with it, and it fits its length field. -/
theorem discriminant_eq_some {frame : Bytes} {t : Byte} {f : InFrame} (h : discriminant frame = some (t, f)) :
    frame = inFrameBytes t f ∧ f.fits = true := by
  unfold discriminant at h
  split at h
  · rename_i s1 s2 sd l0 l1 lvl noise qual proto t' fields
    split at h
    · rename_i hc
      obtain ⟨h1, h2, h3⟩ := hc
      simp only [Option.some.injEq, Prod.mk.injEq] at h
      obtain ⟨rfl, rfl⟩ := h
      have b0 := l0.isLt
      have b1 := l1.isLt
      refine ⟨?_, by simp only [InFrame.fits, decide_eq_true_eq]; omega⟩
      have e0 : BitVec.ofNat 8 (rfPrefixLen + fields.length) = l0 := by
        apply BitVec.eq_of_toNat_eq; simp only [BitVec.toNat_ofNat]; omega
      have e1 : BitVec.ofNat 8 ((rfPrefixLen + fields.length) / 256) = l1 := by
        apply BitVec.eq_of_toNat_eq; simp only [BitVec.toNat_ofNat]; omega
      simp [inFrameBytes, inPayload, e0, e1, h1, h2]
    · cases h
  · cases h

/-- The payload of a written frame. -/
theorem payloadOf_inFrameBytes (t : Byte) (f : InFrame) : payloadOf (inFrameBytes t f) = inPayload t f := rfl

/-- Frame byte 9 is the infoType (R63). -/
theorem byteAt_infoType (t : Byte) (f : InFrame) : byteAt (inFrameBytes t f) 9 = t := rfl

theorem length_inPayload (t : Byte) (f : InFrame) : (inPayload t f).length = rfPrefixLen + f.fields.length := by
  simp [inPayload, rfPrefixLen]; omega

theorem length_inFrameBytes (t : Byte) (f : InFrame) : (inFrameBytes t f).length = hdr + (inPayload t f).length := by
  simp [inFrameBytes, hdr]; omega

theorem declaredLen_inFrameBytes (t : Byte) (f : InFrame) (h : f.fits = true) :
    declaredLen (inFrameBytes t f) = (inPayload t f).length := by
  have hl : rfPrefixLen + f.fields.length ≤ 65535 := by simpa [InFrame.fits] using h
  have := ofNat8_length_bytes _ hl
  rw [length_inPayload]
  simpa [declaredLen, rdLE, inFrameBytes, byteAt] using this

/-- The infoType byte of the row an infoType selects is that byte. -/
theorem infoTypeOf_selectInfoType (t : Byte) (f : InFrame) : infoTypeOf (selectInfoType t f) = some t := by
  obtain ⟨n, hn⟩ : ∃ n : Fin 256, t = BitVec.ofFin n := ⟨t.toFin, rfl⟩
  subst hn
  revert n
  intro n
  fin_cases n <;> rfl

/-- The row of a frame's infoType (R133), for each of the 16 known types and the four unknown ranges. -/
theorem decode_frame (cfg : Configuration) (conn : Nat) (t : Byte) (f : InFrame) (h : f.fits = true) :
    decode cfg (.txn conn 0b10 (.bytes (inFrameBytes t f))) = .ok (selectInfoType t f) := by
  have hd := discriminant_inFrameBytes t f h
  show (match discriminant (inFrameBytes t f) with
    | some (t, f) => Except.ok (selectInfoType t f)
    | none => Except.ok (.decode (inFrameBytes t f))) = _
  rw [hd]

/-- Everything `decode` can answer for an op DECODE (R79, R130). -/
theorem decode_op_decode (cfg : Configuration) (conn : Nat) (frame : Bytes) :
    (∃ t f, discriminant frame = some (t, f) ∧
        decode cfg (.txn conn 0b10 (.bytes frame)) = .ok (selectInfoType t f)) ∨
      (discriminant frame = none ∧ decode cfg (.txn conn 0b10 (.bytes frame)) = .ok (.decode frame)) := by
  cases hd : discriminant frame with
  | none =>
    right
    refine ⟨rfl, ?_⟩
    show (match discriminant frame with
      | some (t, f) => Except.ok (selectInfoType t f)
      | none => Except.ok (.decode frame)) = _
    rw [hd]
  | some p =>
    obtain ⟨t, f⟩ := p
    left
    refine ⟨t, f, rfl, ?_⟩
    show (match discriminant frame with
      | some (t, f) => Except.ok (selectInfoType t f)
      | none => Except.ok (.decode frame)) = _
    rw [hd]

theorem decode_op_reset (cfg : Configuration) (conn : Nat) :
    decode cfg (.txn conn 0b00 .none) = .ok (.reset conn) := rfl

theorem decode_op_push (cfg : Configuration) (conn : Nat) (s : Bytes) :
    decode cfg (.txn conn 0b01 (.bytes s)) = .ok (.push conn s) := rfl

theorem decode_op_encode (cfg : Configuration) (conn : Nat) (c : Command) :
    decode cfg (.txn conn 0b11 (.command c)) = .ok (selectCommand cfg c) := rfl

/-- Everything `selectCommand` can answer (R203, R204). -/
theorem selectCommand_cases (cfg : Configuration) (c : Command) :
    (commandAction cfg c = some .off ∧ selectCommand cfg c = .encOff c) ∨
    (commandAction cfg c = some .on ∧ selectCommand cfg c = .encOn c) ∨
    (commandAction cfg c = some .dim ∧ selectCommand cfg c = .encDim c) ∨
    (commandAction cfg c = some .assoc ∧ selectCommand cfg c = .encAssoc c) ∨
    (commandAction cfg c = none ∧ selectCommand cfg c = .encode c) := by
  unfold selectCommand
  cases h : commandAction cfg c with
  | none => simp
  | some a => cases a <;> simp

/-! ### The device id of a command frame -/

/-- The device id put together from the four bytes ASSEMBLE writes is the device id (R65, R214). -/
theorem id_of_bytes (id : BitVec 32) :
    (id.extractLsb' 24 8 ++ id.extractLsb' 16 8 ++ id.extractLsb' 8 8 ++ id.extractLsb' 0 8 : BitVec 32) = id := by
  apply BitVec.eq_of_toNat_eq
  simp only [BitVec.toNat_append, BitVec.extractLsb'_toNat]
  have h := id.isLt
  rw [← Nat.shiftLeft_add_eq_or_of_lt (by omega), ← Nat.shiftLeft_add_eq_or_of_lt (by omega),
    ← Nat.shiftLeft_add_eq_or_of_lt (by omega)]
  simp only [Nat.shiftLeft_eq, Nat.shiftRight_eq_div_pow]
  omega

/-- The four bytes ASSEMBLE writes of an id that was put together from four bytes are those bytes (R65, R214). -/
theorem bytes_of_id (b0 b1 b2 b3 : BitVec 8) :
    (b3 ++ b2 ++ b1 ++ b0 : BitVec 32).extractLsb' 0 8 = b0 ∧
    (b3 ++ b2 ++ b1 ++ b0 : BitVec 32).extractLsb' 8 8 = b1 ∧
    (b3 ++ b2 ++ b1 ++ b0 : BitVec 32).extractLsb' 16 8 = b2 ∧
    (b3 ++ b2 ++ b1 ++ b0 : BitVec 32).extractLsb' 24 8 = b3 := by
  have e : (b3 ++ b2 ++ b1 ++ b0 : BitVec 32).toNat =
      ((b3.toNat * 256 + b2.toNat) * 256 + b1.toNat) * 256 + b0.toNat := by
    have h0 := b0.isLt
    have h1 := b1.isLt
    have h2 := b2.isLt
    simp only [BitVec.toNat_append]
    rw [← Nat.shiftLeft_add_eq_or_of_lt h2, ← Nat.shiftLeft_add_eq_or_of_lt h1, ← Nat.shiftLeft_add_eq_or_of_lt h0]
    simp only [Nat.shiftLeft_eq]
  have h0 := b0.isLt
  have h1 := b1.isLt
  have h2 := b2.isLt
  have h3 := b3.isLt
  refine ⟨?_, ?_, ?_, ?_⟩ <;> apply BitVec.eq_of_toNat_eq <;>
    rw [BitVec.extractLsb'_toNat, e, Nat.shiftRight_eq_div_pow] <;> omega

end Sys2Proof
end

