-- ==== Sys2Proof/Laws/Exec.lean ====
section
/-! SUPPORT. What each arm of exec answers, one lemma per instruction, and what no instruction changes. -/

namespace Sys2Proof.Machine

theorem exec_reset (conn : Nat) (s : State) :
    exec (.reset conn) s = .next ((s.setInstance conn Reassembler.fresh).answer []) := rfl

theorem exec_push (conn : Nat) (batch : Bytes) (s : State) : exec (.push conn batch) s = execPush conn batch s := rfl

theorem exec_decode (frame : Bytes) (s : State) :
    exec (.decode frame) s = .next (s.answer [decodeFrame s.cfg frame]) := rfl

theorem exec_encode (c : Command) (s : State) :
    exec (.encode c) s = .next (s.answer (encodeCommand s.cfg c)) := rfl

/-- The outcome of the known infoType t on its operand bytes. -/
def rowOutcome (cfg : Configuration) (t : Fin 16) (f : InFrame) : Output :=
  layoutOutcome (minLenOf cfg t) (inPayload (BitVec.ofNat 8 t.val) f)
    (readingOf cfg t (inPayload (BitVec.ofNat 8 t.val) f))

theorem exec_decT0 (f : InFrame) (s : State) :
    exec (.decT0 f) s = .next (s.answer [rowOutcome s.cfg 0 f]) := rfl

theorem exec_decT1 (f : InFrame) (s : State) :
    exec (.decT1 f) s = .next (s.answer [rowOutcome s.cfg 1 f]) := rfl

theorem exec_decT2 (f : InFrame) (s : State) :
    exec (.decT2 f) s = .next (s.answer [rowOutcome s.cfg 2 f]) := rfl

theorem exec_decT3 (f : InFrame) (s : State) :
    exec (.decT3 f) s = .next (s.answer [rowOutcome s.cfg 3 f]) := rfl

theorem exec_decT4 (f : InFrame) (s : State) :
    exec (.decT4 f) s = .next (s.answer [rowOutcome s.cfg 4 f]) := rfl

theorem exec_decT5 (f : InFrame) (s : State) :
    exec (.decT5 f) s = .next (s.answer [rowOutcome s.cfg 5 f]) := rfl

theorem exec_decT6 (f : InFrame) (s : State) :
    exec (.decT6 f) s = .next (s.answer [rowOutcome s.cfg 6 f]) := rfl

theorem exec_decT7 (f : InFrame) (s : State) :
    exec (.decT7 f) s = .next (s.answer [rowOutcome s.cfg 7 f]) := rfl

theorem exec_decT8 (f : InFrame) (s : State) :
    exec (.decT8 f) s = .next (s.answer [rowOutcome s.cfg 8 f]) := rfl

theorem exec_decT9 (f : InFrame) (s : State) :
    exec (.decT9 f) s = .next (s.answer [rowOutcome s.cfg 9 f]) := rfl

theorem exec_decT10 (f : InFrame) (s : State) :
    exec (.decT10 f) s = .next (s.answer [rowOutcome s.cfg 10 f]) := rfl

theorem exec_decT11 (f : InFrame) (s : State) :
    exec (.decT11 f) s = .next (s.answer [rowOutcome s.cfg 11 f]) := rfl

theorem exec_decT12 (f : InFrame) (s : State) :
    exec (.decT12 f) s = .next (s.answer [rowOutcome s.cfg 12 f]) := rfl

theorem exec_decT13 (f : InFrame) (s : State) :
    exec (.decT13 f) s = .next (s.answer [rowOutcome s.cfg 13 f]) := rfl

theorem exec_decT14 (f : InFrame) (s : State) :
    exec (.decT14 f) s = .next (s.answer [rowOutcome s.cfg 14 f]) := rfl

theorem exec_decT15 (f : InFrame) (s : State) :
    exec (.decT15 f) s = .next (s.answer [rowOutcome s.cfg 15 f]) := rfl

theorem exec_decUnknown10 (low : BitVec 4) (f : InFrame) (s : State) :
    exec (.decUnknown10 low f) s = .next (s.answer [unknownOutcome (0x1#4 ++ low)]) := rfl

theorem exec_decUnknown20 (low : BitVec 5) (f : InFrame) (s : State) :
    exec (.decUnknown20 low f) s = .next (s.answer [unknownOutcome (0x1#3 ++ low)]) := rfl

theorem exec_decUnknown40 (low : BitVec 6) (f : InFrame) (s : State) :
    exec (.decUnknown40 low f) s = .next (s.answer [unknownOutcome (0x1#2 ++ low)]) := rfl

theorem exec_decUnknown80 (low : BitVec 7) (f : InFrame) (s : State) :
    exec (.decUnknown80 low f) s = .next (s.answer [unknownOutcome (0x1#1 ++ low)]) := rfl

theorem exec_encFrame (pc ac : Byte) (id : U32) (dv : Byte) (s : State) :
    exec (.encFrame pc ac id dv) s = .next (s.answer [.frame (assemble pc ac id dv)]) := rfl

theorem exec_encOff (c : Command) (s : State) :
    exec (.encOff c) s = .next (s.answer (encodeWith s.cfg c (some (actionCode s.cfg .off)))) := rfl

theorem exec_encOn (c : Command) (s : State) :
    exec (.encOn c) s = .next (s.answer (encodeWith s.cfg c (some (actionCode s.cfg .on)))) := rfl

theorem exec_encDim (c : Command) (s : State) :
    exec (.encDim c) s = .next (s.answer (encodeWith s.cfg c (some (actionCode s.cfg .dim)))) := rfl

theorem exec_encAssoc (c : Command) (s : State) :
    exec (.encAssoc c) s = .next (s.answer (encodeWith s.cfg c (some (actionCode s.cfg .assoc)))) := rfl

/-- Everything an instruction can do: RESET and PUSH act on their connection's instance, every other instruction only
answers. -/
theorem exec_cases {i : Instr} {s t : State} (h : exec i s = .next t) :
    (∃ conn, i = .reset conn ∧ t = (s.setInstance conn Reassembler.fresh).answer []) ∨
    (∃ conn batch, i = .push conn batch ∧ exceedsBatch s.cfg batch.length = false ∧
      t = (s.setInstance conn (pushInto s.cfg (s.instanceAt conn) batch).1).answer
            (pushInto s.cfg (s.instanceAt conn) batch).2) ∨
    ((∀ conn, i ≠ .reset conn) ∧ (∀ conn batch, i ≠ .push conn batch) ∧ ∃ outs, t = s.answer outs) := by
  cases i with
  | reset conn =>
    left
    rw [exec_reset] at h
    exact ⟨conn, rfl, by cases h; rfl⟩
  | push conn batch =>
    right; left
    obtain ⟨h1, h2⟩ := execPush_eq_next.mp h
    exact ⟨conn, batch, rfl, h1, h2⟩
  | decode _ => exact .inr (.inr ⟨by simp, by simp, _, by cases h; rfl⟩)
  | encode _ => exact .inr (.inr ⟨by simp, by simp, _, by cases h; rfl⟩)
  | decT0 _ => exact .inr (.inr ⟨by simp, by simp, _, by cases h; rfl⟩)
  | decT1 _ => exact .inr (.inr ⟨by simp, by simp, _, by cases h; rfl⟩)
  | decT2 _ => exact .inr (.inr ⟨by simp, by simp, _, by cases h; rfl⟩)
  | decT3 _ => exact .inr (.inr ⟨by simp, by simp, _, by cases h; rfl⟩)
  | decT4 _ => exact .inr (.inr ⟨by simp, by simp, _, by cases h; rfl⟩)
  | decT5 _ => exact .inr (.inr ⟨by simp, by simp, _, by cases h; rfl⟩)
  | decT6 _ => exact .inr (.inr ⟨by simp, by simp, _, by cases h; rfl⟩)
  | decT7 _ => exact .inr (.inr ⟨by simp, by simp, _, by cases h; rfl⟩)
  | decT8 _ => exact .inr (.inr ⟨by simp, by simp, _, by cases h; rfl⟩)
  | decT9 _ => exact .inr (.inr ⟨by simp, by simp, _, by cases h; rfl⟩)
  | decT10 _ => exact .inr (.inr ⟨by simp, by simp, _, by cases h; rfl⟩)
  | decT11 _ => exact .inr (.inr ⟨by simp, by simp, _, by cases h; rfl⟩)
  | decT12 _ => exact .inr (.inr ⟨by simp, by simp, _, by cases h; rfl⟩)
  | decT13 _ => exact .inr (.inr ⟨by simp, by simp, _, by cases h; rfl⟩)
  | decT14 _ => exact .inr (.inr ⟨by simp, by simp, _, by cases h; rfl⟩)
  | decT15 _ => exact .inr (.inr ⟨by simp, by simp, _, by cases h; rfl⟩)
  | decUnknown10 _ _ => exact .inr (.inr ⟨by simp, by simp, _, by cases h; rfl⟩)
  | decUnknown20 _ _ => exact .inr (.inr ⟨by simp, by simp, _, by cases h; rfl⟩)
  | decUnknown40 _ _ => exact .inr (.inr ⟨by simp, by simp, _, by cases h; rfl⟩)
  | decUnknown80 _ _ => exact .inr (.inr ⟨by simp, by simp, _, by cases h; rfl⟩)
  | encFrame _ _ _ _ => exact .inr (.inr ⟨by simp, by simp, _, by cases h; rfl⟩)
  | encOff _ => exact .inr (.inr ⟨by simp, by simp, _, by cases h; rfl⟩)
  | encOn _ => exact .inr (.inr ⟨by simp, by simp, _, by cases h; rfl⟩)
  | encDim _ => exact .inr (.inr ⟨by simp, by simp, _, by cases h; rfl⟩)
  | encAssoc _ => exact .inr (.inr ⟨by simp, by simp, _, by cases h; rfl⟩)

/-- What holds of R272's last sentence beside R108 (log 20): no instruction but RESET takes bytes out of a buffer and puts
out nothing. -/
theorem buffer_kept_of_silent {i : Instr} {s t : State} {k : Nat} (h : exec i s = .next t) (hi : i ≠ .reset k)
    (hs : t.out = []) : (s.instanceAt k).buffer <+: (t.instanceAt k).buffer := by
  rcases exec_cases h with ⟨conn, rfl, rfl⟩ | ⟨conn, batch, rfl, _, rfl⟩ | ⟨_, _, outs, rfl⟩
  · have hk : k ≠ conn := fun e => hi (by rw [e])
    rw [answer_instanceAt, setInstance_instanceAt_other _ _ hk]
  · rw [answer_instanceAt]
    by_cases hk : k = conn
    · subst hk
      rw [setInstance_instanceAt_same]
      rw [answer_out] at hs
      rcases pushInto_cases s.cfg (s.instanceAt k) batch with ⟨_, e⟩ | ⟨_, _, e⟩ | ⟨_, _, e⟩
      · simp [e] at hs
      · simp [e] at hs
      · rw [e] at hs ⊢
        rw [scan_of_silent hs]
        exact List.prefix_append _ _
    · rw [setInstance_instanceAt_other _ _ hk]
  · rfl

/-- Everything a step can do: it idles, or it runs the instruction of the oldest request (R47, R260). -/
theorem step_cases {s t : State} (h : step s = .next t) :
    (s.requests = [] ∧ t = s) ∨
    ∃ r rest i, s.requests = r :: rest ∧ decode s.cfg r = .ok i ∧ exec i (s.withRequests rest) = .next t := by
  unfold step at h
  cases hr : s.requests with
  | nil => rw [fetch_nil hr] at h; left; cases h; exact ⟨rfl, rfl⟩
  | cons r rest =>
    rw [fetch_cons hr] at h
    simp only at h
    cases hd : decode s.cfg r with
    | error e => rw [hd] at h; cases h
    | ok i => rw [hd] at h; exact .inr ⟨r, rest, i, rfl, hd, h⟩

/-- A step with a request that decodes runs the instruction. -/
theorem step_of_decode {s : State} {r : Request} {rest : List Request} {i : Instr}
    (hr : s.requests = r :: rest) (hd : decode s.cfg r = .ok i) : step s = exec i (s.withRequests rest) := by
  unfold step
  rw [fetch_cons hr]
  simp only [hd]

end Sys2Proof.Machine
end

