-- ==== Sys2Proof/Laws/Operands.lean ====
section
/-! SUPPORT. What the operand operations do, said once: field reads as numbers (R12, R41), MINLEN (R72), the decimal
grammar (R78), and ENCODE's output list (R201, R213 to R215). -/

namespace Sys2Proof.Machine

/-- A 16-bit field is its two bytes, the lower offset less significant (R41). -/
theorem rd16_toNat (p : Bytes) (o : Nat) : (rd16 p o).toNat = (byteAt p o).toNat + 256 * (byteAt p (o + 1)).toNat := by
  have h0 := (byteAt p o).isLt
  have h1 := (byteAt p (o + 1)).isLt
  simp only [rd16, rdLE, BitVec.toNat_ofNat]; omega

/-- A 32-bit field is its four bytes, the lower offset less significant (R41). -/
theorem rd32_toNat (p : Bytes) (o : Nat) :
    (rd32 p o).toNat = (byteAt p o).toNat + 256 * (byteAt p (o + 1)).toNat + 65536 * (byteAt p (o + 2)).toNat
      + 16777216 * (byteAt p (o + 3)).toNat := by
  have h0 := (byteAt p o).isLt
  have h1 := (byteAt p (o + 1)).isLt
  have h2 := (byteAt p (o + 2)).isLt
  have h3 := (byteAt p (o + 3)).isLt
  have e2 : o + 1 + 1 = o + 2 := rfl
  have e3 : o + 2 + 1 = o + 3 := rfl
  simp only [rd32, rdLE, BitVec.toNat_ofNat, e2, e3]; omega

/-- MINLEN is at least n exactly when the RF prefix or some field ends at n or later (R72). -/
theorem minLen_le (spans : List (Nat × Nat)) (n : Nat) :
    minLen spans ≤ n ↔ rfPrefixLen ≤ n ∧ ∀ f ∈ spans, f.1 + f.2 ≤ n := by
  induction spans with
  | nil => simp [minLen]
  | cons f rest ih =>
    have : minLen (f :: rest) = max (f.1 + f.2) (minLen rest) := rfl
    rw [this, max_le_iff, ih]
    simp only [List.mem_cons, forall_eq_or_imp]
    tauto

/-- Everything a row of a known infoType can answer (R135). -/
theorem layoutOutcome_cases (n : Nat) (p : Bytes) (r : Reading) :
    (p.length < n ∧ layoutOutcome n p r = .event (.malformed .short)) ∨
      (n ≤ p.length ∧ layoutOutcome n p r = .reading r) := by
  unfold layoutOutcome
  by_cases h : p.length < n
  · simp [h]
  · right; simp [h, Nat.le_of_not_lt h]

/-- The decimal grammar D+ (R78): one or more digits, and nothing else, has a value. -/
theorem decimal_isSome (cs : List Char) : (decimal cs).isSome = true ↔ cs ≠ [] ∧ ∀ c ∈ cs, isDigit c = true := by
  unfold decimal
  by_cases h : cs ≠ [] ∧ cs.all isDigit = true
  · rw [if_pos h]; simpa using h
  · rw [if_neg h]; simpa using h

/-- One more digit multiplies the value by ten and adds the digit. -/
theorem decimal_snoc {cs : List Char} {c : Char} {n : Nat} (h : decimal cs = some n) (hc : isDigit c = true) :
    decimal (cs ++ [c]) = some (10 * n + (c.toNat - 48)) := by
  unfold decimal at *
  split at h
  · rename_i hcs
    cases h
    rw [if_pos]
    · simp
    · exact ⟨by simp, by simp [hcs.2, hc]⟩
  · cases h

theorem decimal_digit {c : Char} (hc : isDigit c = true) : decimal [c] = some (c.toNat - 48) := by
  simp [decimal, hc]

/-- Everything ENCODE can answer once its values are resolved (R201, R213 to R215). -/
theorem encodeOutputs_cases (strict : Bool) (pc : Byte) (ac : Option Byte) (id : Option U32) (dv : Byte) :
    (strict = true ∧ unresolved pc ac id ≠ [] ∧
      encodeOutputs strict pc ac id dv = (unresolved pc ac id).map .event ++ [.event .encRejected]) ∨
    ((strict = false ∨ unresolved pc ac id = []) ∧
      encodeOutputs strict pc ac id dv =
        (unresolved pc ac id).map .event ++ [.frame (assemble pc (ac.getD 0) (id.getD 0) dv)]) := by
  unfold encodeOutputs
  by_cases h : strict = true ∧ unresolved pc ac id ≠ []
  · left; simp [h.1, h.2]
  · right
    refine ⟨?_, by simp only [if_neg h]⟩
    cases strict
    · exact .inl rfl
    · right; by_contra hu; exact h ⟨rfl, hu⟩

/-- Which events an ENCODE raises for its unresolved values (R213, R246). -/
theorem mem_unresolved (pc : Byte) (ac : Option Byte) (id : Option U32) (e : Event) :
    e ∈ unresolved pc ac id ↔
      (e = .encUnresProto ∧ pc = 0) ∨ (e = .encUnresAction ∧ ac = none) ∨ (e = .encUnresId ∧ id = none) := by
  unfold unresolved
  by_cases h : pc = 0 <;> cases ac <;> cases id <;> simp [h, and_comm]

/-- Everything the action mapping can answer (R203, R204). -/
theorem actionOf_cases (cfg : Configuration) (pc : Byte) (tok : String) :
    (cfg.haProto = some pc ∧ actionOf cfg pc tok = (haToken tok).map haAction) ∨
      (cfg.haProto ≠ some pc ∧ actionOf cfg pc tok = genericAction tok) := by
  unfold actionOf
  by_cases h : cfg.haProto = some pc <;> simp [h]

end Sys2Proof.Machine
end

