-- ==== Sys2Proof/Laws/PerInstr.lean ====
section
/-! SUPPORT. The family RowMatch, one lemma per constructor of Instr: the request an instruction is encoded as carries the
bits its row of spec/opcode_table.json fixes (the op select, frame byte 9 under the row's mask, the constant bytes of a
command frame). -/

namespace Sys2Proof.Laws.RowMatch

open Sys2Proof.Machine

/-- The request has this op select and a byte-sequence operand whose byte 9 meets mask and match. -/
def infoTypeRequest (mask value : Byte) (r : Request) : Prop :=
  ∃ conn s, r = .txn conn 0b10 (.bytes s) ∧ byteAt s 9 &&& mask = value

/-- The request's bits are those of the instruction's row. -/
def Statement (i : Instr) : Prop :=
  match i with
  | .reset conn => encode i = .txn conn 0b00 .none
  | .push conn s => encode i = .txn conn 0b01 (.bytes s)
  | .decode s => encode i = .txn 0 0b10 (.bytes s)
  | .encode c => encode i = .txn 0 0b11 (.command c)
  | .decT0 _ => infoTypeRequest 0xFF 0x00 (encode i)
  | .decT1 _ => infoTypeRequest 0xFF 0x01 (encode i)
  | .decT2 _ => infoTypeRequest 0xFF 0x02 (encode i)
  | .decT3 _ => infoTypeRequest 0xFF 0x03 (encode i)
  | .decT4 _ => infoTypeRequest 0xFF 0x04 (encode i)
  | .decT5 _ => infoTypeRequest 0xFF 0x05 (encode i)
  | .decT6 _ => infoTypeRequest 0xFF 0x06 (encode i)
  | .decT7 _ => infoTypeRequest 0xFF 0x07 (encode i)
  | .decT8 _ => infoTypeRequest 0xFF 0x08 (encode i)
  | .decT9 _ => infoTypeRequest 0xFF 0x09 (encode i)
  | .decT10 _ => infoTypeRequest 0xFF 0x0A (encode i)
  | .decT11 _ => infoTypeRequest 0xFF 0x0B (encode i)
  | .decT12 _ => infoTypeRequest 0xFF 0x0C (encode i)
  | .decT13 _ => infoTypeRequest 0xFF 0x0D (encode i)
  | .decT14 _ => infoTypeRequest 0xFF 0x0E (encode i)
  | .decT15 _ => infoTypeRequest 0xFF 0x0F (encode i)
  | .decUnknown10 _ _ => infoTypeRequest 0xF0 0x10 (encode i)
  | .decUnknown20 _ _ => infoTypeRequest 0xE0 0x20 (encode i)
  | .decUnknown40 _ _ => infoTypeRequest 0xC0 0x40 (encode i)
  | .decUnknown80 _ _ => infoTypeRequest 0x80 0x80 (encode i)
  | .encFrame pc ac _ dv => ∃ word, encode i = .cmd17 word ∧ word.length = 17 ∧
      word.take 9 = [0x5A, 0x49, 0x01, 0x0C, 0x00, 0x00, 0x00, pc, ac] ∧ word.drop 13 = [dv, 0x00, 0x00, 0x00]
  | .encOff c => encode i = .txn 0 0b11 (.command c)
  | .encOn c => encode i = .txn 0 0b11 (.command c)
  | .encDim c => encode i = .txn 0 0b11 (.command c)
  | .encAssoc c => encode i = .txn 0 0b11 (.command c)

theorem reset (conn : Nat) : Statement (.reset conn) := rfl
theorem push (conn : Nat) (s : Bytes) : Statement (.push conn s) := rfl
theorem decode (s : Bytes) : Statement (.decode s) := rfl
theorem encode (c : Command) : Statement (.encode c) := rfl
theorem decT0 (f : InFrame) : Statement (.decT0 f) :=
  ⟨0, _, rfl, by rw [byteAt_infoType]; decide⟩
theorem decT1 (f : InFrame) : Statement (.decT1 f) :=
  ⟨0, _, rfl, by rw [byteAt_infoType]; decide⟩
theorem decT2 (f : InFrame) : Statement (.decT2 f) :=
  ⟨0, _, rfl, by rw [byteAt_infoType]; decide⟩
theorem decT3 (f : InFrame) : Statement (.decT3 f) :=
  ⟨0, _, rfl, by rw [byteAt_infoType]; decide⟩
theorem decT4 (f : InFrame) : Statement (.decT4 f) :=
  ⟨0, _, rfl, by rw [byteAt_infoType]; decide⟩
theorem decT5 (f : InFrame) : Statement (.decT5 f) :=
  ⟨0, _, rfl, by rw [byteAt_infoType]; decide⟩
theorem decT6 (f : InFrame) : Statement (.decT6 f) :=
  ⟨0, _, rfl, by rw [byteAt_infoType]; decide⟩
theorem decT7 (f : InFrame) : Statement (.decT7 f) :=
  ⟨0, _, rfl, by rw [byteAt_infoType]; decide⟩
theorem decT8 (f : InFrame) : Statement (.decT8 f) :=
  ⟨0, _, rfl, by rw [byteAt_infoType]; decide⟩
theorem decT9 (f : InFrame) : Statement (.decT9 f) :=
  ⟨0, _, rfl, by rw [byteAt_infoType]; decide⟩
theorem decT10 (f : InFrame) : Statement (.decT10 f) :=
  ⟨0, _, rfl, by rw [byteAt_infoType]; decide⟩
theorem decT11 (f : InFrame) : Statement (.decT11 f) :=
  ⟨0, _, rfl, by rw [byteAt_infoType]; decide⟩
theorem decT12 (f : InFrame) : Statement (.decT12 f) :=
  ⟨0, _, rfl, by rw [byteAt_infoType]; decide⟩
theorem decT13 (f : InFrame) : Statement (.decT13 f) :=
  ⟨0, _, rfl, by rw [byteAt_infoType]; decide⟩
theorem decT14 (f : InFrame) : Statement (.decT14 f) :=
  ⟨0, _, rfl, by rw [byteAt_infoType]; decide⟩
theorem decT15 (f : InFrame) : Statement (.decT15 f) :=
  ⟨0, _, rfl, by rw [byteAt_infoType]; decide⟩
theorem decUnknown10 (low : BitVec 4) (f : InFrame) : Statement (.decUnknown10 low f) :=
  ⟨0, _, rfl, by rw [byteAt_infoType]; clear f; revert low; decide⟩
theorem decUnknown20 (low : BitVec 5) (f : InFrame) : Statement (.decUnknown20 low f) :=
  ⟨0, _, rfl, by rw [byteAt_infoType]; clear f; revert low; decide⟩
theorem decUnknown40 (low : BitVec 6) (f : InFrame) : Statement (.decUnknown40 low f) :=
  ⟨0, _, rfl, by rw [byteAt_infoType]; clear f; revert low; decide⟩
theorem decUnknown80 (low : BitVec 7) (f : InFrame) : Statement (.decUnknown80 low f) :=
  ⟨0, _, rfl, by rw [byteAt_infoType]; clear f; revert low; decide⟩
theorem encFrame (pc ac : Byte) (id : U32) (dv : Byte) : Statement (.encFrame pc ac id dv) :=
  ⟨_, rfl, rfl, rfl, rfl⟩
theorem encOff (c : Command) : Statement (.encOff c) := rfl
theorem encOn (c : Command) : Statement (.encOn c) := rfl
theorem encDim (c : Command) : Statement (.encDim c) := rfl
theorem encAssoc (c : Command) : Statement (.encAssoc c) := rfl

end Sys2Proof.Laws.RowMatch
end

