-- ==== Sys2Proof/Machine/Assembly.lean ====
section
/-! DEFINITION. The transaction text of R80 and the pseudo-transactions of R81: one line to the transactions it stands for.
The engine itself reads requests (R79); this is how a line of 95_test_vectors.md is written as them. -/

namespace Sys2Proof.Machine

/-- A word of a line: bare, or quoted. -/
inductive LineWord where
  | bare (w : List Char)
  | quoted (w : List Char)
  deriving DecidableEq, Repr

/-- Where the reading of a line stands: between words, in a bare word, or in a quoted one (letters so far, last first). -/
inductive LineMode where
  | between
  | inBare (acc : List Char)
  | inQuoted (acc : List Char)
  deriving DecidableEq, Repr

/-- The double quote character. -/
def quoteChar : Char := Char.ofNat 34

/-- White space inside a line. -/
def isBlank (c : Char) : Bool := c = ' ' || c.toNat = 9 || c.toNat = 13

/-- The words of a line; `;` outside quotes starts a comment (R80). None for a quote that is not closed or that stands
inside a bare word. -/
def lineWords : LineMode → List Char → Option (List LineWord)
  | .between, [] => some []
  | .inBare acc, [] => some [.bare acc.reverse]
  | .inQuoted _, [] => none
  | .between, c :: cs =>
    if c = ';' then some []
    else if isBlank c then lineWords .between cs
    else if c = quoteChar then lineWords (.inQuoted []) cs
    else lineWords (.inBare [c]) cs
  | .inBare acc, c :: cs =>
    if c = ';' then some [.bare acc.reverse]
    else if isBlank c then (lineWords .between cs).map (.bare acc.reverse :: ·)
    else if c = quoteChar then none
    else lineWords (.inBare (c :: acc)) cs
  | .inQuoted acc, c :: cs =>
    if c = quoteChar then (lineWords .between cs).map (.quoted acc.reverse :: ·)
    else lineWords (.inQuoted (c :: acc)) cs

/-- The value of a hexadecimal digit. -/
def hexDigit (c : Char) : Option Nat :=
  if 48 ≤ c.toNat ∧ c.toNat ≤ 57 then some (c.toNat - 48)
  else if 65 ≤ c.toNat ∧ c.toNat ≤ 70 then some (c.toNat - 55)
  else if 97 ≤ c.toNat ∧ c.toNat ≤ 102 then some (c.toNat - 87)
  else none

/-- A hex byte: two digits (R80). -/
def hexByte (w : LineWord) : Option Byte :=
  match w with
  | .bare [a, b] =>
    match hexDigit a, hexDigit b with
    | some x, some y => some (BitVec.ofNat 8 (16 * x + y))
    | _, _ => none
  | _ => none

/-- Hex bytes separated by spaces (R80). -/
def hexBytes : List LineWord → Option Bytes
  | [] => some []
  | w :: ws =>
    match hexByte w, hexBytes ws with
    | some b, some bs => some (b :: bs)
    | _, _ => none

/-- An operand that `-` marks absent (R80). -/
def optWord (w : List Char) : Option String := if w = ['-'] then none else some (String.ofList w)

/-- The optional dim operand of ENCODE, `dim=` and a value of 0..255 (R80); the outer none is a malformed operand. -/
def dimWord (ws : List LineWord) : Option (Option Byte) :=
  match ws with
  | [] => some none
  | [.bare ('d' :: 'i' :: 'm' :: '=' :: ds)] =>
    match decimal ds with
    | some n => if n ≤ 255 then some (some (BitVec.ofNat 8 n)) else none
    | none => none
  | _ => none

/-- What a line stands for: nothing but a comment, transactions, or the receive path of a batch, whose DECODEs depend on
what its PUSH emits (R81). -/
inductive Line where
  | txns (rs : List Request)
  | rx (batch : Bytes)
  deriving DecidableEq, Repr

/-- The line of these words on a connection (R80, R81); none if it is not of a form given there. -/
def lineOf (conn : Nat) (ws : List LineWord) : Option Line :=
  match ws with
  | [] => some (.txns [])
  | .quoted _ :: _ => none
  | .bare w :: args =>
    if w = "RESET".toList then (if args = [] then some (.txns [.txn conn 0b00 .none]) else none)
    else if w = "PUSH".toList then (hexBytes args).map (fun b => .txns [.txn conn 0b01 (.bytes b)])
    else if w = "DECODE".toList then (hexBytes args).map (fun b => .txns [.txn conn 0b10 (.bytes b)])
    else if w = "ENCODE".toList then
      match args with
      | .bare p :: .quoted t :: .bare i :: rest =>
        (dimWord rest).map (fun d => .txns [.txn conn 0b11 (.command
          { proto := optWord p, token := String.ofList t, idCode := optWord i, dimIn := d })])
      | _ => none
    else if w = "PUSHN".toList then
      match args with
      | [.bare n, h] =>
        match decimal n.dropLast, n.getLast?, hexByte h with
        | some k, some ',', some b => some (.txns [pushN conn k b])
        | _, _, _ => none
      | _ => none
    else if w = "TRICKLE".toList then (hexBytes args).map (fun b => .txns (trickle conn b))
    else if w = "RX".toList then (hexBytes args).map .rx
    else none

/-- Read one line of text. -/
def readLine (conn : Nat) (text : String) : Option Line :=
  match lineWords .between text.toList with
  | some ws => lineOf conn ws
  | none => none

end Sys2Proof.Machine
end

