-- ==== Sys2Proof/Tests/Slice0.lean ====
section
/-! SUPPORT. The model's own tests. Expected values are those of 95_test_vectors.md and of the examples in the rules, read
by hand; each test's comment names its source. `testConfig` is the TEST_LAYOUT of 95_test_vectors.md, which is invented and
used here only. The theorems named witness_… show, for each statement with hypotheses, a concrete state and operands that
meet them together. -/

namespace Sys2Proof.Tests

open Sys2Proof.Machine

/-! ### Helpers -/

/-- TEST_LAYOUT of 95_test_vectors.md section 1. -/
def testLayout : LayoutTable :=
  let plain : LayoutPlain := { st := 5, id := 7 }
  let qualified : LayoutQualified := { st := 5, id := 7, qualifier := 11 }
  { t0 := plain
    t1 := { st := 5, id := 9 }
    t2 := qualified
    t3 := qualified
    t4 := { st := 5, idPHY := 7, idChannel := 9, qualifier := 11, temp := 13, humidity := 15 }
    t5 := { st := 5, idPHY := 7, idChannel := 9, qualifier := 11, temp := 13, humidity := 15, pressure := 17 }
    t6 := { st := 5, idPHY := 7, idChannel := 9, qualifier := 11, speed := 13, direction := 15 }
    t7 := { st := 5, idPHY := 7, idChannel := 9, qualifier := 11, light := 13 }
    t8 := { st := 5, idPHY := 7, idChannel := 9, qualifier := 11, energy := 13, power := 15, pi1 := 17, pi2 := 19,
            pi3 := 21 }
    t9 := { st := 5, idPHY := 7, idChannel := 9, qualifier := 11, totalRain := 13, rain := 15 }
    t10 := qualified
    t11 := qualified
    t12 := qualified
    t13 := { st := 5, id := 7, contractType := 11, setpoint := 13, cnt1 := 15, cnt2 := 19, apparentPower := 23,
             qualifier := 25 }
    t14 := qualified
    t15 := plain }

/-- The flag bits of 95_test_vectors.md section 1. -/
def testFlags : FlagTable :=
  { t2 := { tamper := 0, alarm := 1, lowbatt := 2, alive := 3 }
    t4 := 0, t5 := 0, t6 := 0, t7 := 0, t8 := 0, t9 := 0
    t10 := { tamper := 0, anomaly := 1, lowbatt := 2, testassoc := 3, domestic := 4 }
    t11 := { tamper := 0, anomaly := 1, lowbatt := 2, testassoc := 3, domestic := 4 } }

/-- The configuration of the vectors. -/
def testConfig : Configuration := { Configuration.initial with layout := testLayout, flagBit := testFlags }

/-- The configuration of the HA vectors: a name of code 9, HA_PROTO 9 and the candidate HA_DIM of
93_implementation_defined.md G4. -/
def haConfig : Configuration :=
  { testConfig with
    protoExtra := [("x2delec", 9)]
    haProto := some 9
    haDim := { autoLow := 7, ecoLow := 0, confortLow := 3, auto := 7, eco := 0, confort := 3, stop := 4, horsGel := 5 } }

/-- The configuration with a bounded buffer and bounded batches. -/
def boundedConfig : Configuration := { testConfig with bufCap := some 20, maxBatch := some 30 }

/-- FA of 95_test_vectors.md. -/
def frameFA : Bytes := [0x5A, 0x49, 0x00, 0x0B, 0x00, 0xC4, 0x9C, 0x0A, 0x01, 0x00, 0x02, 0x00, 0x78, 0x56, 0x34, 0x12]

/-- FB of 95_test_vectors.md. -/
def frameFB : Bytes := [0x5A, 0x49, 0x00, 0x11, 0x00, 0xC4, 0x9C, 0x0A, 0x01, 0x04, 0x01, 0x00, 0x2D, 0x1A, 0x42, 0x00,
  0x00, 0x00, 0xD7, 0x00, 0x2D, 0x00]

/-- An inbound frame with the RF prefix C4 9C 0A 01 of the vectors. -/
def inFrame (fields : Bytes) : InFrame :=
  { sourceDest := 0x00, rf := { rfLevel := 0xC4, floorNoise := 0x9C, rfQuality := 0x0A, protocol := 0x01 }, fields := fields }

/-- A command. -/
def command (proto : String) (token : String) (idCode : String) : Command :=
  { proto := some proto, token := token, idCode := some idCode, dimIn := none }

/-- A state with one instance listed, on connection 0. -/
def holding (cfg : Configuration) (buffer : Bytes) (fault : Bool) : State :=
  (State.boot cfg).setInstance 0 { buffer := buffer, fault := fault }

/-- The output list an outcome answers; none if it stops. -/
def answered (o : Host.Outcome State Fault Refusal) : Option (List Output) :=
  match o with
  | .next t => some t.out
  | .fault _ => none
  | .refused _ => none

/-- The instance of connection 0 in the next state; none if it stops. -/
def leaves (o : Host.Outcome State Fault Refusal) : Option Reassembler :=
  match o with
  | .next t => some (t.instanceAt 0)
  | .fault _ => none
  | .refused _ => none

/-- What the first request of a state answers. -/
def runs (s : State) (r : Request) : Option (List Output) := answered (step (s.issue r))

/-! ### WellFormed: each check refuses an ill-formed term -/

theorem fits_replicate (n : Nat) : (inFrame (List.replicate n 0)).fits = decide (5 + n ≤ 65535) := by
  simp [InFrame.fits, inFrame, rfPrefixLen]

/-- A payload of 65536 bytes does not fit the length field, one of 65535 does (R61). -/
theorem test_fits : (inFrame (List.replicate 65531 0)).fits = false ∧ (inFrame (List.replicate 65530 0)).fits = true := by
  rw [fits_replicate, fits_replicate]; decide

/-- Each of the 20 DEC rows is ill formed with a frame that does not fit. -/
theorem test_wf_row_too_long (t : Byte) (f : InFrame) (h : f.fits = false) :
    (selectInfoType t f).wellFormed testConfig = false := by
  unfold selectInfoType
  split <;> try exact h
  split <;> try exact h
  split <;> try exact h
  split <;> exact h

theorem test_wf_decode_of_a_row : (Instr.decode frameFA).wellFormed testConfig = false := by decide

theorem test_wf_encode_of_a_row : (Instr.encode (command "chacon" "1" "A1")).wellFormed testConfig = false := by decide

theorem test_wf_off_token : (Instr.encOff (command "chacon" "1" "A1")).wellFormed testConfig = false := by decide

theorem test_wf_on_token : (Instr.encOn (command "chacon" "0" "A1")).wellFormed testConfig = false := by decide

theorem test_wf_dim_token : (Instr.encDim (command "chacon" "6" "A1")).wellFormed testConfig = false := by decide

theorem test_wf_assoc_token : (Instr.encAssoc (command "chacon" "2" "A1")).wellFormed testConfig = false := by decide

theorem test_wf_ha_token : (Instr.encOn (command "x2delec" "1" "A1")).wellFormed haConfig = false := by decide

theorem test_wf_protocol_code : (Instr.encFrame 17 0 0 0).wellFormed testConfig = false := by decide

/-- Legal and illegal tables (R29, R70): the vectors' tables and those of power on are legal; an offset below 5, equal ids
of types 0 and 1, a code of 17, a dim code of 1 and a capacity of 0 are not. -/
theorem test_legal : testConfig.legal = true ∧ haConfig.legal = true ∧ Configuration.initial.legal = true := by decide

theorem test_illegal :
    Configuration.legal { testConfig with layout := { testLayout with t3 := { st := 4, id := 7, qualifier := 11 } } }
      = false ∧
    Configuration.legal { testConfig with layout := { testLayout with t1 := { st := 5, id := 7 } } } = false ∧
    Configuration.legal { testConfig with protoExtra := [("late", 17)] } = false ∧
    Configuration.legal { testConfig with haProto := some 0 } = false ∧
    Configuration.legal { haConfig with haDim := { haConfig.haDim with eco := 1 } } = false ∧
    Configuration.legal { testConfig with bufCap := some 0 } = false ∧
    Configuration.legal { testConfig with maxBatch := some 0 } = false := by decide

/-- The canonical form refuses a fresh entry and entries out of order. -/
theorem test_memory_form :
    Memory.wf [(0, { buffer := [1], fault := false }), (2, { buffer := [], fault := true })] = true ∧
    Memory.wf [(0, Reassembler.fresh)] = false ∧
    Memory.wf [(2, { buffer := [1], fault := false }), (0, { buffer := [1], fault := false })] = false := by decide

/-! ### Words written out from the encodings (R60, R62, R66, R73, R79) -/

theorem test_word_reset : decode testConfig (.txn 7 0b00 .none) = .ok (.reset 7) := rfl

theorem test_word_push : decode testConfig (.txn 7 0b01 (.bytes [0x5A, 0x49, 0x00])) = .ok (.push 7 [0x5A, 0x49, 0x00]) :=
  rfl

/-- A frame with no infoType stays a DECODE. -/
theorem test_word_decode :
    decode testConfig (.txn 0 0b10 (.bytes [0x5A, 0x49, 0x07, 0x00, 0x00])) = .ok (.decode [0x5A, 0x49, 0x07, 0x00, 0x00]) :=
  rfl

/-- A command whose token has no action stays an ENCODE. -/
theorem test_word_encode :
    decode testConfig (.txn 0 0b11 (.command (command "chacon" "9" "A1"))) = .ok (.encode (command "chacon" "9" "A1")) :=
  rfl

theorem test_word_decT0 :
    decode testConfig (.txn 0 0b10 (.bytes [0x5A, 0x49, 0x00, 0x0B, 0x00, 0xC4, 0x9C, 0x0A, 0x01, 0x00, 0x02, 0x00, 0x78, 0x56, 0x34, 0x12]))
      = .ok (.decT0 (inFrame [0x02, 0x00, 0x78, 0x56, 0x34, 0x12])) := rfl

theorem test_word_decT1 :
    decode testConfig (.txn 0 0b10 (.bytes [0x5A, 0x49, 0x00, 0x0D, 0x00, 0xC4, 0x9C, 0x0A, 0x01, 0x01, 0x03, 0x00, 0x00, 0x00, 0xEF, 0xCD, 0xAB, 0x00]))
      = .ok (.decT1 (inFrame [0x03, 0x00, 0x00, 0x00, 0xEF, 0xCD, 0xAB, 0x00])) := rfl

theorem test_word_decT2 :
    decode testConfig (.txn 0 0b10 (.bytes [0x5A, 0x49, 0x00, 0x0D, 0x00, 0xC4, 0x9C, 0x0A, 0x01, 0x02, 0x00, 0x00, 0x00, 0x01, 0x00, 0x00, 0x05, 0x00]))
      = .ok (.decT2 (inFrame [0x00, 0x00, 0x00, 0x01, 0x00, 0x00, 0x05, 0x00])) := rfl

theorem test_word_decT3 :
    decode testConfig (.txn 0 0b10 (.bytes [0x5A, 0x49, 0x00, 0x0D, 0x00, 0xC4, 0x9C, 0x0A, 0x01, 0x03, 0x01, 0x00, 0x0D, 0x0C, 0x0B, 0x0A, 0x00, 0x00]))
      = .ok (.decT3 (inFrame [0x01, 0x00, 0x0D, 0x0C, 0x0B, 0x0A, 0x00, 0x00])) := rfl

theorem test_word_decT4 :
    decode testConfig (.txn 0 0b10 (.bytes [0x5A, 0x49, 0x00, 0x11, 0x00, 0xC4, 0x9C, 0x0A, 0x01, 0x04, 0x01, 0x00, 0x2D, 0x1A, 0x42, 0x00, 0x00,
       0x00, 0xD7, 0x00, 0x2D, 0x00]))
      = .ok (.decT4 (inFrame [0x01, 0x00, 0x2D, 0x1A, 0x42, 0x00, 0x00, 0x00, 0xD7, 0x00, 0x2D, 0x00])) := rfl

theorem test_word_decT5 :
    decode testConfig (.txn 0 0b10 (.bytes [0x5A, 0x49, 0x00, 0x13, 0x00, 0xC4, 0x9C, 0x0A, 0x01, 0x05, 0x00, 0x00, 0x01, 0x00, 0x02, 0x00, 0x01,
       0x00, 0xE7, 0xFF, 0x50, 0x00, 0xF5, 0x03]))
      = .ok (.decT5 (inFrame [0x00, 0x00, 0x01, 0x00, 0x02, 0x00, 0x01, 0x00, 0xE7, 0xFF, 0x50, 0x00, 0xF5, 0x03])) := rfl

theorem test_word_decT6 :
    decode testConfig (.txn 0 0b10 (.bytes [0x5A, 0x49, 0x00, 0x11, 0x00, 0xC4, 0x9C, 0x0A, 0x01, 0x06, 0x00, 0x00, 0x34, 0x12, 0x01, 0x00, 0x00,
       0x00, 0x23, 0x00, 0x0E, 0x01]))
      = .ok (.decT6 (inFrame [0x00, 0x00, 0x34, 0x12, 0x01, 0x00, 0x00, 0x00, 0x23, 0x00, 0x0E, 0x01])) := rfl

theorem test_word_decT7 :
    decode testConfig (.txn 0 0b10 (.bytes [0x5A, 0x49, 0x00, 0x0F, 0x00, 0xC4, 0x9C, 0x0A, 0x01, 0x07, 0x00, 0x00, 0xFF, 0xFF, 0xFF, 0xFF, 0x00,
       0x00, 0x07, 0x00]))
      = .ok (.decT7 (inFrame [0x00, 0x00, 0xFF, 0xFF, 0xFF, 0xFF, 0x00, 0x00, 0x07, 0x00])) := rfl

theorem test_word_decT8 :
    decode testConfig (.txn 0 0b10 (.bytes [0x5A, 0x49, 0x00, 0x17, 0x00, 0xC4, 0x9C, 0x0A, 0x01, 0x08, 0x00, 0x00, 0xAB, 0x00, 0x03, 0x00, 0x00,
       0x00, 0xFF, 0xFF, 0xDC, 0x05, 0xF4, 0x01, 0x58, 0x02, 0x90, 0x01]))
      = .ok (.decT8 (inFrame [0x00, 0x00, 0xAB, 0x00, 0x03, 0x00, 0x00, 0x00, 0xFF, 0xFF, 0xDC, 0x05, 0xF4, 0x01, 0x58, 0x02, 0x90, 0x01])) := rfl

theorem test_word_decT9 :
    decode testConfig (.txn 0 0b10 (.bytes [0x5A, 0x49, 0x00, 0x11, 0x00, 0xC4, 0x9C, 0x0A, 0x01, 0x09, 0x00, 0x00, 0x00, 0x01, 0x00, 0x00, 0x00,
       0x00, 0xD2, 0x04, 0x05, 0x00]))
      = .ok (.decT9 (inFrame [0x00, 0x00, 0x00, 0x01, 0x00, 0x00, 0x00, 0x00, 0xD2, 0x04, 0x05, 0x00])) := rfl

theorem test_word_decT10 :
    decode testConfig (.txn 0 0b10 (.bytes [0x5A, 0x49, 0x00, 0x0D, 0x00, 0xC4, 0x9C, 0x0A, 0x01, 0x0A, 0x00, 0x00, 0x00, 0x00, 0x00, 0x80, 0x1F, 0x00]))
      = .ok (.decT10 (inFrame [0x00, 0x00, 0x00, 0x00, 0x00, 0x80, 0x1F, 0x00])) := rfl

theorem test_word_decT11 :
    decode testConfig (.txn 0 0b10 (.bytes [0x5A, 0x49, 0x00, 0x0D, 0x00, 0xC4, 0x9C, 0x0A, 0x01, 0x0B, 0x00, 0x00, 0x01, 0x00, 0x00, 0x00, 0x12, 0x00]))
      = .ok (.decT11 (inFrame [0x00, 0x00, 0x01, 0x00, 0x00, 0x00, 0x12, 0x00])) := rfl

theorem test_word_decT12 :
    decode testConfig (.txn 0 0b10 (.bytes [0x5A, 0x49, 0x00, 0x0D, 0x00, 0xC4, 0x9C, 0x0A, 0x01, 0x0C, 0x00, 0x00, 0x07, 0x00, 0x00, 0x00, 0xFF, 0xFF]))
      = .ok (.decT12 (inFrame [0x00, 0x00, 0x07, 0x00, 0x00, 0x00, 0xFF, 0xFF])) := rfl

theorem test_word_decT13 :
    decode testConfig (.txn 0 0b10 (.bytes [0x5A, 0x49, 0x00, 0x1B, 0x00, 0xC4, 0x9C, 0x0A, 0x01, 0x0D, 0x00, 0x00, 0x04, 0x03, 0x02, 0x01, 0x01,
       0x00, 0x1E, 0x00, 0x45, 0x23, 0x01, 0x00, 0xFF, 0xFF, 0xFF, 0xFF, 0xFC, 0x08, 0x00, 0x00]))
      = .ok (.decT13 (inFrame [0x00, 0x00, 0x04, 0x03, 0x02, 0x01, 0x01, 0x00, 0x1E, 0x00, 0x45, 0x23, 0x01, 0x00, 0xFF, 0xFF, 0xFF,
       0xFF, 0xFC, 0x08, 0x00, 0x00])) := rfl

theorem test_word_decT14 :
    decode testConfig (.txn 0 0b10 (.bytes [0x5A, 0x49, 0x00, 0x0D, 0x00, 0xC4, 0x9C, 0x0A, 0x01, 0x0E, 0x00, 0x00, 0xFF, 0x00, 0xFF, 0x00, 0x02, 0x00]))
      = .ok (.decT14 (inFrame [0x00, 0x00, 0xFF, 0x00, 0xFF, 0x00, 0x02, 0x00])) := rfl

theorem test_word_decT15 :
    decode testConfig (.txn 0 0b10 (.bytes [0x5A, 0x49, 0x00, 0x0B, 0x00, 0xC4, 0x9C, 0x0A, 0x01, 0x0F, 0xFF, 0xFF, 0x00, 0x00, 0x00, 0x00]))
      = .ok (.decT15 (inFrame [0xFF, 0xFF, 0x00, 0x00, 0x00, 0x00])) := rfl

theorem test_word_decUnknown10 :
    decode testConfig (.txn 0 0b10 (.bytes [0x5A, 0x49, 0x00, 0x05, 0x00, 0xC4, 0x9C, 0x0A, 0x01, 0x1F]))
      = .ok (.decUnknown10 15 (inFrame [])) := rfl

theorem test_word_decUnknown20 :
    decode testConfig (.txn 0 0b10 (.bytes [0x5A, 0x49, 0x00, 0x05, 0x00, 0xC4, 0x9C, 0x0A, 0x01, 0x20]))
      = .ok (.decUnknown20 0 (inFrame [])) := rfl

theorem test_word_decUnknown40 :
    decode testConfig (.txn 0 0b10 (.bytes [0x5A, 0x49, 0x00, 0x05, 0x00, 0xC4, 0x9C, 0x0A, 0x01, 0x7F]))
      = .ok (.decUnknown40 63 (inFrame [])) := rfl

theorem test_word_decUnknown80 :
    decode testConfig (.txn 0 0b10 (.bytes [0x5A, 0x49, 0x00, 0x05, 0x00, 0xC4, 0x9C, 0x0A, 0x01, 0x80]))
      = .ok (.decUnknown80 0 (inFrame [])) := rfl

/-- The frame of vector E3. -/
theorem test_word_encFrame :
    decode testConfig (.cmd17 [0x5A, 0x49, 0x01, 0x0C, 0x00, 0x00, 0x00, 0x0B, 0x02, 0x10, 0x00, 0x00, 0x00, 0x04, 0x00, 0x00,
        0x00])
      = .ok (.encFrame 0x0B 0x02 16 0x04) := rfl

theorem test_word_encOff :
    decode testConfig (.txn 0 0b11 (.command (command "chacon" "0" "A1"))) = .ok (.encOff (command "chacon" "0" "A1")) :=
  rfl

theorem test_word_encOn :
    decode testConfig (.txn 0 0b11 (.command (command "chacon" "1" "A1"))) = .ok (.encOn (command "chacon" "1" "A1")) :=
  rfl

theorem test_word_encDim :
    decode testConfig (.txn 0 0b11 (.command (command "chacon" "2" "A1"))) = .ok (.encDim (command "chacon" "2" "A1")) :=
  rfl

theorem test_word_encAssoc :
    decode testConfig (.txn 0 0b11 (.command (command "chacon" "6" "A1"))) = .ok (.encAssoc (command "chacon" "6" "A1")) :=
  rfl

/-- A request of the wrong operand, a frame whose constant byte is not constant, a protocol code of 17. -/
theorem test_rejected :
    decode testConfig (.txn 0 0b01 .none) = .error (.operandMismatch 0b01) ∧
    decode testConfig (.cmd17 (assemble 3 1 0 0 ++ [0])) = .error .notCommandFrame ∧
    decode testConfig (.cmd17 ((assemble 3 1 0 0).set 14 1)) = .error .notCommandFrame ∧
    decode testConfig (.cmd17 (assemble 17 1 0 0)) = .error (.protocolCodeRange 17) := ⟨rfl, rfl, rfl, rfl⟩

/-- Words of spec/opcode_table.json, one of each format. -/
theorem test_table_words :
    decodeTableWord 8 0x01 = some (.push 0 []) ∧ decodeTableWord 8 0x0D = some (.decT13 tableInFrame) ∧
    decodeTableWord 8 0x40 = some (.decUnknown40 0 tableInFrame) ∧
    decodeTableWord 64 0x5A49010C00000000 = some (.encFrame 0 0 0 0) := ⟨rfl, rfl, rfl, rfl⟩

theorem test_table_word_runs :
    answered (step (State.reset.withFetchWord 8 0x80)) = some [.event (.unknownType 0x80)] := by decide

/-! ### One step of each instruction (95_test_vectors.md section 3) -/

/-- R103: RESET of a waiting instance (V17). -/
theorem test_reset : leaves (step ((holding testConfig [0x5A, 0x49, 0x00] false).issue (.txn 0 0b00 .none)))
    = some Reassembler.fresh := by decide

/-- V13: RESET is the way on after OVERFLOW. -/
theorem test_reset_fault : leaves (step ((holding boundedConfig [] true).issue (.txn 0 0b00 .none)))
    = some Reassembler.fresh := by decide

/-- V8: two frames in one batch. -/
theorem test_push : runs (State.boot testConfig) (.txn 0 0b01 (.bytes (frameFA ++ frameFB)))
    = some [.frame frameFA, .frame frameFB] := by decide +kernel

/-- V18: a batch above MAX_BATCH is refused. -/
theorem test_push_refused : execPush 0 frameFA (State.boot { testConfig with maxBatch := some 4 })
    = .refused (.batchTooLong 16) := rfl

/-- D-4 and D-6. -/
theorem test_decode : runs (State.boot testConfig) (.txn 0 0b10 (.bytes [0x5A, 0x48, 0x00, 0x00, 0x00]))
    = some [.event (.malformed .badHeader)] := by decide

theorem test_decode_length : runs (State.boot testConfig) (.txn 0 0b10 (.bytes (frameFA.take 15)))
    = some [.event (.malformed .badLength)] := by decide

/-- E24: nothing resolves, the dim byte stays. -/
theorem test_encode : runs (State.boot testConfig)
      (.txn 0 0b11 (.command { proto := none, token := "x", idCode := none, dimIn := some 9 }))
    = some [.event .encUnresProto, .event .encUnresAction, .event .encUnresId,
        .frame [0x5A, 0x49, 0x01, 0x0C, 0x00, 0x00, 0x00, 0x00, 0x00, 0x00, 0x00, 0x00, 0x00, 0x09, 0x00, 0x00, 0x00]] := by
  decide +kernel

/-- H10: HA_PROTO 11 takes the HA actions and the RTS dim byte. -/
theorem test_encode_rts_ha : runs (State.boot { testConfig with haProto := some 11 })
      (.txn 0 0b11 (.command (command "rts" "2" "A1")))
    = some [.event .encUnresAction,
        .frame [0x5A, 0x49, 0x01, 0x0C, 0x00, 0x00, 0x00, 0x0B, 0x00, 0x00, 0x00, 0x00, 0x00, 0x04, 0x00, 0x00, 0x00]] := by
  decide +kernel

theorem test_decT0 : runs (State.boot testConfig)
      (.txn 0 0b10 (.bytes [0x5A, 0x49, 0x00, 0x0B, 0x00, 0xC4, 0x9C, 0x0A, 0x01, 0x00, 0x02, 0x00, 0x78, 0x56, 0x34, 0x12]))
    = some [.reading { infoType := 0, family := .x10DomiaLiteParrot, id := 305419896, subtype := 2, body := .t0 }] := by
  decide +kernel

theorem test_decT1 : runs (State.boot testConfig)
      (.txn 0 0b10 (.bytes [0x5A, 0x49, 0x00, 0x0D, 0x00, 0xC4, 0x9C, 0x0A, 0x01, 0x01, 0x03, 0x00, 0x00, 0x00, 0xEF, 0xCD, 0xAB,
         0x00]))
    = some [.reading { infoType := 1, family := .chacon, id := 11259375, subtype := 3, body := .t1 }] := by
  decide +kernel

theorem test_decT2 : runs (State.boot testConfig)
      (.txn 0 0b10 (.bytes [0x5A, 0x49, 0x00, 0x0D, 0x00, 0xC4, 0x9C, 0x0A, 0x01, 0x02, 0x00, 0x00, 0x00, 0x01, 0x00, 0x00, 0x05,
         0x00]))
    = some [.reading { infoType := 2, family := .visonic, id := 256, subtype := 0, body := .t2 5 1 0 1 0 }] := by
  decide +kernel

theorem test_decT3 : runs (State.boot testConfig)
      (.txn 0 0b10 (.bytes [0x5A, 0x49, 0x00, 0x0D, 0x00, 0xC4, 0x9C, 0x0A, 0x01, 0x03, 0x01, 0x00, 0x0D, 0x0C, 0x0B, 0x0A, 0x00,
         0x00]))
    = some [.reading { infoType := 3, family := .rts, id := 168496141, subtype := 1, body := .t3 0 }] := by
  decide +kernel

theorem test_decT4 : runs (State.boot testConfig)
      (.txn 0 0b10 (.bytes [0x5A, 0x49, 0x00, 0x11, 0x00, 0xC4, 0x9C, 0x0A, 0x01, 0x04, 0x01, 0x00, 0x2D, 0x1A, 0x42, 0x00, 0x00,
         0x00, 0xD7, 0x00, 0x2D, 0x00]))
    = some [.reading { infoType := 4, family := .oregon, id := 439156802, subtype := 1, body := .t4 215 45 0 }] := by
  decide +kernel

theorem test_decT5 : runs (State.boot testConfig)
      (.txn 0 0b10 (.bytes [0x5A, 0x49, 0x00, 0x13, 0x00, 0xC4, 0x9C, 0x0A, 0x01, 0x05, 0x00, 0x00, 0x01, 0x00, 0x02, 0x00, 0x01,
         0x00, 0xE7, 0xFF, 0x50, 0x00, 0xF5, 0x03]))
    = some [.reading { infoType := 5, family := .oregon, id := 65538, subtype := 0, body := .t5 (-25) 80 1013 1 }] := by
  decide +kernel

theorem test_decT6 : runs (State.boot testConfig)
      (.txn 0 0b10 (.bytes [0x5A, 0x49, 0x00, 0x11, 0x00, 0xC4, 0x9C, 0x0A, 0x01, 0x06, 0x00, 0x00, 0x34, 0x12, 0x01, 0x00, 0x00,
         0x00, 0x23, 0x00, 0x0E, 0x01]))
    = some [.reading { infoType := 6, family := .oregon, id := 305397761, subtype := 0, body := .t6 35 270 0 }] := by
  decide +kernel

theorem test_decT7 : runs (State.boot testConfig)
      (.txn 0 0b10 (.bytes [0x5A, 0x49, 0x00, 0x0F, 0x00, 0xC4, 0x9C, 0x0A, 0x01, 0x07, 0x00, 0x00, 0xFF, 0xFF, 0xFF, 0xFF, 0x00,
         0x00, 0x07, 0x00]))
    = some [.reading { infoType := 7, family := .oregon, id := 4294967295, subtype := 0, body := .t7 7 0 }] := by
  decide +kernel

theorem test_decT8 : runs (State.boot testConfig)
      (.txn 0 0b10 (.bytes [0x5A, 0x49, 0x00, 0x17, 0x00, 0xC4, 0x9C, 0x0A, 0x01, 0x08, 0x00, 0x00, 0xAB, 0x00, 0x03, 0x00, 0x00,
         0x00, 0xFF, 0xFF, 0xDC, 0x05, 0xF4, 0x01, 0x58, 0x02, 0x90, 0x01]))
    = some [.reading { infoType := 8, family := .owl, id := 11206659, subtype := 0, body := .t8 65535 1500 500 600 400 0 }] := by
  decide +kernel

theorem test_decT9 : runs (State.boot testConfig)
      (.txn 0 0b10 (.bytes [0x5A, 0x49, 0x00, 0x11, 0x00, 0xC4, 0x9C, 0x0A, 0x01, 0x09, 0x00, 0x00, 0x00, 0x01, 0x00, 0x00, 0x00,
         0x00, 0xD2, 0x04, 0x05, 0x00]))
    = some [.reading { infoType := 9, family := .oregon, id := 16777216, subtype := 0, body := .t9 1234 5 0 }] := by
  decide +kernel

theorem test_decT10 : runs (State.boot testConfig)
      (.txn 0 0b10 (.bytes [0x5A, 0x49, 0x00, 0x0D, 0x00, 0xC4, 0x9C, 0x0A, 0x01, 0x0A, 0x00, 0x00, 0x00, 0x00, 0x00, 0x80, 0x1F,
         0x00]))
    = some [.reading { infoType := 10, family := .x2d, id := 2147483648, subtype := 0, body := .t10 31 1 1 1 1 1 }] := by
  decide +kernel

theorem test_decT11 : runs (State.boot testConfig)
      (.txn 0 0b10 (.bytes [0x5A, 0x49, 0x00, 0x0D, 0x00, 0xC4, 0x9C, 0x0A, 0x01, 0x0B, 0x00, 0x00, 0x01, 0x00, 0x00, 0x00, 0x12,
         0x00]))
    = some [.reading { infoType := 11, family := .x2d, id := 1, subtype := 0, body := .t11 18 0 1 0 0 1 }] := by
  decide +kernel

theorem test_decT12 : runs (State.boot testConfig)
      (.txn 0 0b10 (.bytes [0x5A, 0x49, 0x00, 0x0D, 0x00, 0xC4, 0x9C, 0x0A, 0x01, 0x0C, 0x00, 0x00, 0x07, 0x00, 0x00, 0x00, 0xFF,
         0xFF]))
    = some [.reading { infoType := 12, family := .deprecatedThermostat, id := 7, subtype := 0, body := .t12 65535 }] := by
  decide +kernel

theorem test_decT13 : runs (State.boot testConfig)
      (.txn 0 0b10 (.bytes [0x5A, 0x49, 0x00, 0x1B, 0x00, 0xC4, 0x9C, 0x0A, 0x01, 0x0D, 0x00, 0x00, 0x04, 0x03, 0x02, 0x01, 0x01,
         0x00, 0x1E, 0x00, 0x45, 0x23, 0x01, 0x00, 0xFF, 0xFF, 0xFF, 0xFF, 0xFC, 0x08, 0x00, 0x00]))
    = some [.reading { infoType := 13, family := .metering, id := 16909060, subtype := 0, body := .t13 1 30 74565 4294967295 2300 0 }] := by
  decide +kernel

theorem test_decT14 : runs (State.boot testConfig)
      (.txn 0 0b10 (.bytes [0x5A, 0x49, 0x00, 0x0D, 0x00, 0xC4, 0x9C, 0x0A, 0x01, 0x0E, 0x00, 0x00, 0xFF, 0x00, 0xFF, 0x00, 0x02,
         0x00]))
    = some [.reading { infoType := 14, family := .fs20, id := 16711935, subtype := 0, body := .t14 2 }] := by
  decide +kernel

theorem test_decT15 : runs (State.boot testConfig)
      (.txn 0 0b10 (.bytes [0x5A, 0x49, 0x00, 0x0B, 0x00, 0xC4, 0x9C, 0x0A, 0x01, 0x0F, 0xFF, 0xFF, 0x00, 0x00, 0x00, 0x00]))
    = some [.reading { infoType := 15, family := .jamming, id := 0, subtype := 65535, body := .t15 }] := by
  decide +kernel

/-- D-12: the lowest temperature, the highest humidity. -/
theorem test_decT4_signed : runs (State.boot testConfig) (.txn 0 0b10 (.bytes [0x5A, 0x49, 0x00, 0x11, 0x00, 0xC4, 0x9C, 0x0A,
      0x01, 0x04, 0x01, 0x00, 0x2D, 0x1A, 0x42, 0x00, 0x01, 0x00, 0x00, 0x80, 0xFF, 0xFF]))
    = some [.reading { infoType := 4, family := .oregon, id := 439156802, subtype := 1, body := .t4 (-32768) 65535 1 }] := by
  decide +kernel

/-- D-8: type 15 with 10 bytes, one below its MINLEN. -/
theorem test_decT15_short : runs (State.boot testConfig) (.txn 0 0b10 (.bytes [0x5A, 0x49, 0x00, 0x0A, 0x00, 0xC4, 0x9C, 0x0A,
      0x01, 0x0F, 0xFF, 0xFF, 0x00, 0x00, 0x00]))
    = some [.event (.malformed .short)] := by decide +kernel

/-- D-1. -/
theorem test_decUnknown10 : runs (State.boot testConfig)
      (.txn 0 0b10 (.bytes [0x5A, 0x49, 0x00, 0x05, 0x00, 0xC4, 0x9C, 0x0A, 0x01, 0x10]))
    = some [.event (.unknownType 0x10)] := by decide +kernel

/-- D-2. -/
theorem test_decUnknown20 : runs (State.boot testConfig)
      (.txn 0 0b10 (.bytes [0x5A, 0x49, 0x00, 0x06, 0x00, 0xC4, 0x9C, 0x0A, 0x01, 0x20, 0x00]))
    = some [.event (.unknownType 0x20)] := by decide +kernel

/-- R74: the ends of the two highest ranges. -/
theorem test_decUnknown40 : answered (exec (.decUnknown40 63 (inFrame [])) (State.boot testConfig))
    = some [.event (.unknownType 0x7F)] := by decide

theorem test_decUnknown80 : answered (exec (.decUnknown80 127 (inFrame [])) (State.boot testConfig))
    = some [.event (.unknownType 0xFF)] := by decide

/-- The frame of vector E8, with its four id bytes 78 56 34 12. -/
theorem test_encFrame : answered (exec (.encFrame 1 0 0x12345678 0) (State.boot testConfig))
    = some [.frame [0x5A, 0x49, 0x01, 0x0C, 0x00, 0x00, 0x00, 0x01, 0x00, 0x78, 0x56, 0x34, 0x12, 0x00, 0x00, 0x00, 0x00]] := by
  decide

/-- E2. -/
theorem test_encOff : runs (State.boot testConfig) (.txn 0 0b11 (.command (command "chacon" "0" "A1")))
    = some [.frame [0x5A, 0x49, 0x01, 0x0C, 0x00, 0x00, 0x00, 0x03, 0x00, 0x00, 0x00, 0x00, 0x00, 0x00, 0x00, 0x00, 0x00]] := by
  decide +kernel

/-- H3: ConfortLow is OFF with the dim code of HA_DIM. -/
theorem test_encOff_ha : runs (State.boot haConfig) (.txn 0 0b11 (.command (command "x2delec" "ConfortLow" "A1")))
    = some [.frame [0x5A, 0x49, 0x01, 0x0C, 0x00, 0x00, 0x00, 0x09, 0x00, 0x00, 0x00, 0x00, 0x00, 0x03, 0x00, 0x00, 0x00]] := by
  decide +kernel

/-- E10: the id of P16 is 255. -/
theorem test_encOn : runs (State.boot testConfig) (.txn 0 0b11 (.command (command "dio" "1" "P16")))
    = some [.frame [0x5A, 0x49, 0x01, 0x0C, 0x00, 0x00, 0x00, 0x03, 0x01, 0xFF, 0x00, 0x00, 0x00, 0x00, 0x00, 0x00, 0x00]] := by
  decide +kernel

/-- E25: STRICT with an unknown protocol. -/
theorem test_encOn_strict : runs (State.boot { testConfig with strict := true })
      (.txn 0 0b11 (.command (command "foo" "1" "A1")))
    = some [.event .encUnresProto, .event .encRejected] := by decide +kernel

/-- E3. -/
theorem test_encDim : runs (State.boot testConfig) (.txn 0 0b11 (.command (command "rts" "2" "B1")))
    = some [.frame [0x5A, 0x49, 0x01, 0x0C, 0x00, 0x00, 0x00, 0x0B, 0x02, 0x10, 0x00, 0x00, 0x00, 0x04, 0x00, 0x00, 0x00]] := by
  decide +kernel

/-- E14. -/
theorem test_encDim_given : runs (State.boot testConfig)
      (.txn 0 0b11 (.command { command "chacon" "2" "A3" with dimIn := some 50 }))
    = some [.frame [0x5A, 0x49, 0x01, 0x0C, 0x00, 0x00, 0x00, 0x03, 0x02, 0x02, 0x00, 0x00, 0x00, 0x32, 0x00, 0x00, 0x00]] := by
  decide +kernel

/-- E9. -/
theorem test_encAssoc : runs (State.boot testConfig) (.txn 0 0b11 (.command (command "edisio" "6" "A1")))
    = some [.frame [0x5A, 0x49, 0x01, 0x0C, 0x00, 0x00, 0x00, 0x10, 0x06, 0x00, 0x00, 0x00, 0x00, 0x00, 0x00, 0x00, 0x00]] := by
  decide +kernel

/-- R210 to R212 by the rule's examples. -/
theorem test_device_ids :
    deviceId (some "C2") = some 33 ∧ deviceId (some "Z1") = some 400 ∧ deviceId (some "A016") = some 15 ∧
    deviceId (some "4294967295") = some 0xFFFFFFFF ∧ deviceId (some "4294967296") = none ∧ deviceId (some "A0") = none ∧
    deviceId (some "a1") = none ∧ deviceId (some "") = none := by decide +kernel

/-- 95_test_vectors.md section 3.4. -/
theorem test_presentation :
    tempText 215 = "21.5" ∧ tempText (-5) = "-0.5" ∧ tempText 0 = "0.0" ∧ tempText (-32768) = "-3276.8" ∧
    reference { infoType := 4, family := .oregon, id := 439156802, subtype := 1, body := .t4 215 45 0 } = "4-439156802" := by
  decide +kernel

/-- R80, R81: a line with a comment, and a pseudo-transaction. -/
theorem test_lines :
    readLine 2 "PUSH 5A 49 ; two bytes" = some (.txns [.txn 2 0b01 (.bytes [0x5A, 0x49])]) ∧
    readLine 2 "PUSHN 3, EE" = some (.txns [.txn 2 0b01 (.bytes [0xEE, 0xEE, 0xEE])]) := by decide +kernel

/-- R113, R277: the split changes the answer (V3 against V3b). -/
theorem test_partial_marker_lost :
    (State.pushes 0 (State.boot testConfig) [List.replicate 64 0, [0x5A], frameFA.drop 1]).map (·.2)
      = some [.event (.desync 65)] ∧
    (State.pushes 0 (State.boot testConfig) [List.replicate 64 0 ++ frameFA]).map (·.2) = some [.frame frameFA] := by
  decide +kernel

/-! ### Witnesses: the hypotheses of the statements can be met -/

/-- A state whose oldest request is this one. -/
def asked (s : State) (r : Request) : State := s.withRequests [r]

theorem witness_StepRunsDecodedInstruction :
    (asked State.reset (.txn 1 0b01 (.bytes frameFA))).requests = [.txn 1 0b01 (.bytes frameFA)] ∧
    decode (asked State.reset (.txn 1 0b01 (.bytes frameFA))).cfg (.txn 1 0b01 (.bytes frameFA)) = .ok (.push 1 frameFA) :=
  ⟨rfl, rfl⟩

theorem witness_IdleStepKeepsState : (holding testConfig frameFA false).requests = [] := rfl

theorem witness_EachOpTakesItsOperand :
    (asked State.reset (.txn 1 0b00 (.bytes []))).requests = [.txn 1 0b00 (.bytes [])] ∧
    ∀ i, decode (asked State.reset (.txn 1 0b00 (.bytes []))).cfg (.txn 1 0b00 (.bytes [])) ≠ .ok i :=
  ⟨rfl, fun _ => by rw [show decode _ _ = .error (.operandMismatch 0b00) from rfl]; simp⟩

/-- One well-formed instruction of each kind. -/
theorem witness_DecodeInvertsEncode :
    (Instr.reset 4).wellFormed haConfig = true ∧ (Instr.push 4 frameFA).wellFormed haConfig = true ∧
    (Instr.decode (frameFA.take 9)).wellFormed haConfig = true ∧
    (Instr.encode (command "x2delec" "2" "A1")).wellFormed haConfig = true ∧
    (Instr.decT8 (inFrame [])).wellFormed haConfig = true ∧ (Instr.decUnknown80 127 (inFrame [])).wellFormed haConfig = true ∧
    (Instr.encFrame 16 0xFF 0xFFFFFFFF 0xFF).wellFormed haConfig = true ∧
    (Instr.encOff (command "x2delec" "EcoLow" "A1")).wellFormed haConfig = true ∧
    (Instr.encOn (command "x2delec" "Eco" "A1")).wellFormed haConfig = true ∧
    (Instr.encDim (command "rts" "2" "A1")).wellFormed haConfig = true ∧
    (Instr.encAssoc (command "rts" "6" "A1")).wellFormed haConfig = true := by decide +kernel

/-- A frame of 65535 bytes of payload still fits. -/
theorem witness_DecodeInvertsEncode_longest :
    (Instr.decT0 (inFrame (List.replicate 65530 0))).wellFormed testConfig = true := test_fits.2

theorem witness_EncodeInvertsDecode :
    decode testConfig (.txn 5 0b10 (.bytes frameFA)) = .ok (.decT0 (inFrame (frameFA.drop 10))) ∧
    decode testConfig (.txn 5 0b00 .none) = .ok (.reset 5) ∧
    decode testConfig (.cmd17 (assemble 16 1 2 3)) = .ok (.encFrame 16 1 2 3) := ⟨rfl, rfl, rfl⟩

theorem witness_ConfigurationNeverChanges :
    ∃ t, step (asked (holding testConfig [0x5A] false) (.txn 0 0b01 (.bytes frameFA))) = .next t := ⟨_, rfl⟩

theorem witness_StepKeepsSoundness :
    (asked (holding boundedConfig [0x5A, 0x49] false) (.txn 0 0b01 (.bytes frameFA))).sound = true ∧
    (asked (holding boundedConfig [0x5A] true) (.txn 0 0b00 .none)).sound = true ∧
    (∃ t, step (asked (holding boundedConfig [0x5A, 0x49] false) (.txn 0 0b01 (.bytes frameFA))) = .next t) ∧
    ∃ t, step (asked (holding boundedConfig [0x5A] true) (.txn 0 0b00 .none)) = .next t := by
  refine ⟨by decide, by decide, ⟨_, rfl⟩, ⟨_, rfl⟩⟩

theorem witness_OnlyTheNamedInstanceChanges :
    (∃ t, exec (.push 1 frameFA) (holding testConfig [0x5A] false) = .next t) ∧
    Instr.push 1 frameFA ≠ .reset 0 ∧ ∀ batch, Instr.push 1 frameFA ≠ .push 0 batch :=
  ⟨⟨_, rfl⟩, by decide, fun _ => by simp⟩

/-- Two states with the same instance on connection 0 and different ones on connection 1. -/
theorem witness_PushReadsOnlyItsInstance :
    (holding testConfig [0x5A] false).cfg =
      ((holding testConfig [0x5A] false).setInstance 1 { buffer := [7], fault := false }).cfg ∧
    (holding testConfig [0x5A] false).instanceAt 0 =
      ((holding testConfig [0x5A] false).setInstance 1 { buffer := [7], fault := false }).instanceAt 0 ∧
    ∃ t, exec (.push 0 frameFA) (holding testConfig [0x5A] false) = .next t := ⟨rfl, rfl, _, rfl⟩

theorem witness_DecoderReadsOnlyItsTables :
    (State.boot testConfig).cfg.layout = (holding { testConfig with strict := true, haProto := some 9 } [0] true).cfg.layout ∧
    (State.boot testConfig).cfg.flagBit = (holding { testConfig with strict := true, haProto := some 9 } [0] true).cfg.flagBit :=
  ⟨rfl, rfl⟩

theorem witness_EncoderReadsOnlyItsTables :
    let s := State.boot testConfig
    let u := holding { testConfig with layout := LayoutTable.initial, flagBit := FlagTable.initial, bufCap := some 9 } [0] true
    s.cfg.protoExtra = u.cfg.protoExtra ∧ s.cfg.actionCode = u.cfg.actionCode ∧ s.cfg.haProto = u.cfg.haProto ∧
      s.cfg.haDim = u.cfg.haDim ∧ s.cfg.strict = u.cfg.strict := ⟨rfl, rfl, rfl, rfl, rfl⟩

theorem witness_InboundAndOutboundCommute :
    ∃ t, exec (.push 0 frameFA) (holding testConfig [0x5A] false) = .next t := ⟨_, rfl⟩

/-- A batch of 31 and of 30 bytes under MAX_BATCH 30; a faulted instance; an append to 21 and to 20 under BUF_CAP 20. -/
theorem witness_PushAppendsAndScans :
    exceedsBatch boundedConfig 31 = true ∧ exceedsBatch boundedConfig 30 = false ∧
    ((holding boundedConfig [] true).instanceAt 0).fault = true ∧
    (((holding boundedConfig [0, 0, 0, 0, 0] false).instanceAt 0).fault = false ∧
      exceedsCap boundedConfig (((holding boundedConfig [0, 0, 0, 0, 0] false).instanceAt 0).buffer.length + frameFA.length)
        = true) ∧
    (((holding boundedConfig [0, 0, 0, 0] false).instanceAt 0).fault = false ∧
      exceedsCap boundedConfig (((holding boundedConfig [0, 0, 0, 0] false).instanceAt 0).buffer.length + frameFA.length)
        = false) := by decide

/-- 65 and 64 bytes with no marker, the last byte a lone 0x5A. -/
theorem witness_DesyncAboveSixtyFourBytes :
    (pushRuns (holding testConfig (List.replicate 64 0) false) 0 [0x5A] ∧
      (∀ i, ¬ markerAt (((holding testConfig (List.replicate 64 0) false).instanceAt 0).buffer ++ [0x5A]) i) ∧
      64 < (((holding testConfig (List.replicate 64 0) false).instanceAt 0).buffer ++ [0x5A]).length) ∧
    pushRuns (holding testConfig (List.replicate 63 0) false) 0 [0x5A] ∧
      (∀ i, ¬ markerAt (((holding testConfig (List.replicate 63 0) false).instanceAt 0).buffer ++ [0x5A]) i) ∧
      (((holding testConfig (List.replicate 63 0) false).instanceAt 0).buffer ++ [0x5A]).length ≤ 64 :=
  ⟨⟨by decide +kernel, (findMarker_eq_none _).mp (by decide +kernel), by decide +kernel⟩,
    by decide +kernel, (findMarker_eq_none _).mp (by decide +kernel), by decide +kernel⟩

/-- The marker at offset 70 with 2 and with 4 bytes there. -/
theorem witness_HeaderWaitKeepsTheBuffer :
    (pushRuns (holding testConfig (List.replicate 70 0 ++ [0x5A]) false) 0 [0x49] ∧
      findMarker (((holding testConfig (List.replicate 70 0 ++ [0x5A]) false).instanceAt 0).buffer ++ [0x49]) = some 70 ∧
      (((holding testConfig (List.replicate 70 0 ++ [0x5A]) false).instanceAt 0).buffer ++ [0x49]).length < 70 + 5) ∧
    pushRuns (holding testConfig (List.replicate 70 0 ++ [0x5A]) false) 0 [0x49, 0, 5] ∧
      findMarker (((holding testConfig (List.replicate 70 0 ++ [0x5A]) false).instanceAt 0).buffer ++ [0x49, 0, 5]) = some 70 ∧
      (((holding testConfig (List.replicate 70 0 ++ [0x5A]) false).instanceAt 0).buffer ++ [0x49, 0, 5]).length < 70 + 5 := by
  decide +kernel

/-- `findMarker … = some i` is the hypothesis `firstMarkerAt … i`. -/
theorem witness_firstMarkerAt :
    firstMarkerAt (List.replicate 70 0 ++ [0x5A, 0x49]) 70 ∧ firstMarkerAt ([0x5A, 0x5A] ++ [0x49, 0, 0]) 1 :=
  ⟨(findMarker_eq_some _ _).mp (by decide +kernel), (findMarker_eq_some _ _).mp (by decide)⟩

/-- FA after 3 bytes of garbage, with its last byte missing and with it; and a frame of length 0. -/
theorem witness_CompleteFrameIsCutOut :
    (pushRuns (holding testConfig [1, 2, 3] false) 0 (frameFA.take 15) ∧
      firstMarkerAt (((holding testConfig [1, 2, 3] false).instanceAt 0).buffer ++ frameFA.take 15) 3 ∧
      (((holding testConfig [1, 2, 3] false).instanceAt 0).buffer ++ frameFA.take 15).length < 3 + 5 + 11) ∧
    (pushRuns (holding testConfig [1, 2, 3] false) 0 frameFA ∧
      firstMarkerAt (((holding testConfig [1, 2, 3] false).instanceAt 0).buffer ++ frameFA) 3 ∧
      3 + 5 + 11 ≤ (((holding testConfig [1, 2, 3] false).instanceAt 0).buffer ++ frameFA).length) ∧
    (pushRuns (holding testConfig [] false) 0 [0x5A, 0x49, 7, 0, 0] ∧
      firstMarkerAt (((holding testConfig [] false).instanceAt 0).buffer ++ [0x5A, 0x49, 7, 0, 0]) 0) :=
  ⟨⟨by decide, (findMarker_eq_some _ _).mp (by decide), by decide⟩,
    ⟨by decide, (findMarker_eq_some _ _).mp (by decide), by decide⟩,
    ⟨by decide, (findMarker_eq_some _ _).mp (by decide)⟩⟩

/-- A PUSH that runs and one that faults. -/
theorem witness_PushLeavesAStableBuffer :
    (∃ t, exec (.push 0 frameFA) (holding testConfig [0x5A] false) = .next t ∧ (t.instanceAt 0).fault = false) ∧
    (∃ t, exec (.push 0 frameFB) (holding boundedConfig [0x5A] false) = .next t ∧ (t.instanceAt 0).fault = true) ∧
    (holding boundedConfig [0x5A] false).sound = true :=
  ⟨⟨_, rfl, by decide +kernel⟩, ⟨_, rfl, by decide +kernel⟩, by decide⟩

theorem witness_DesyncComesLastAndOnce :
    ∃ t, exec (.push 0 (frameFA ++ List.replicate 70 0xEE)) (State.boot testConfig) = .next t := ⟨_, rfl⟩

theorem witness_EmittedFramesPartitionTheStream :
    pushRuns (holding testConfig [1, 2, 3] false) 0 (frameFA ++ frameFB ++ [0x5A]) ∧
    ∃ t, exec (.push 0 (frameFA ++ frameFB ++ [0x5A])) (holding testConfig [1, 2, 3] false) = .next t :=
  ⟨by decide, _, rfl⟩

/-- A PUSH whose output list holds a frame and an event. -/
theorem witness_ReceivePathDecodesEachFrame :
    ∃ t, exec (.push 0 (frameFA ++ List.replicate 70 0xEE)) (State.boot testConfig) = .next t ∧
      t.out[0]? = some (.frame frameFA) ∧ t.out[1]? = some (.event (.desync 70)) :=
  ⟨_, rfl, by decide +kernel, by decide +kernel⟩

theorem witness_ReceivePathNeverMeetsBadFrames :
    ∃ t, receive 0 (frameFA ++ [0x5A, 0x49, 7, 0, 0]) (State.boot testConfig) = .next t ∧
      .event (.malformed .noPrefix) ∈ t.out := ⟨_, rfl, by decide +kernel⟩

theorem witness_EmptyBatchChangesNothing :
    (holding boundedConfig [0x5A, 0x49, 0] false).sound = true ∧
    ((holding boundedConfig [0x5A, 0x49, 0] false).instanceAt 0).fault = false := by decide

/-- Two frames, split inside the marker of the second. -/
theorem witness_CleanStreamsIgnoreChunking :
    (State.boot { testConfig with maxBatch := some 30 }).cfg.bufCap = none ∧
    (∀ b ∈ [frameFA ++ [0x5A], frameFB.drop 1],
      exceedsBatch (State.boot { testConfig with maxBatch := some 30 }).cfg b.length = false) ∧
    (State.boot { testConfig with maxBatch := some 30 }).instanceAt 0 = Reassembler.fresh ∧
    (∀ f ∈ [frameFA, frameFB], frameOk f = true) ∧
    [frameFA ++ [0x5A], frameFB.drop 1].flatten = [frameFA, frameFB].flatten := by decide

/-- OVERFLOW from an unfaulted instance, and a PUSH on a faulted one. -/
theorem witness_FaultIsStickyUntilReset :
    (∃ t, step (asked (holding boundedConfig [0x5A] false) (.txn 0 0b01 (.bytes frameFB))) = .next t ∧
      (t.instanceAt 0).fault = true) ∧
    (∃ t, step (asked (holding boundedConfig [0x5A] true) (.txn 0 0b01 (.bytes frameFB))) = .next t) ∧
    ((holding boundedConfig [0x5A] false).instanceAt 0).fault = false ∧
    ((holding boundedConfig [0x5A] true).instanceAt 0).fault = true ∧
    Instr.push 0 frameFB ≠ .reset 0 ∧
    decode boundedConfig (.txn 0 0b01 (.bytes frameFB)) = .ok (.push 0 frameFB) :=
  ⟨⟨_, rfl, by decide +kernel⟩, ⟨_, rfl⟩, by decide, by decide, by decide, rfl⟩

/-- MAX_BATCH 1 and the least capacity of R284 for it. -/
theorem witness_LargeCapacityNeverOverflows :
    let cfg := { testConfig with maxBatch := some 1, bufCap := some 65605 }
    (State.boot cfg).cfg.maxBatch = some 1 ∧ (State.boot cfg).cfg.bufCap = some 65605 ∧ 65603 + 2 * 1 ≤ 65605 ∧
      (State.boot cfg).instanceAt 0 = Reassembler.fresh ∧ ∀ b ∈ frameFA.map (fun x => [x]), b.length ≤ 1 := by decide

/-- MAX_BATCH 1 and the least capacity of R284 for it, with the first marker at the last place the state allows, 63. -/
theorem witness_StepKeepsRoomAndNeverOverflows :
    let cfg := { testConfig with maxBatch := some 1, bufCap := some 65605 }
    let s := asked (holding cfg (List.replicate 63 0 ++ [0x5A, 0x49]) false) (.txn 0 0b01 (.bytes [0x00]))
    roomy 1 s ∧ s.requests ≠ [] ∧ firstMarkerAt (s.instanceAt 0).buffer 63 ∧ ∃ t, step s = .next t := by
  refine ⟨⟨rfl, ?_, ?_⟩, by decide, by decide, _, rfl⟩
  · rintro cap ⟨⟩; decide
  · rintro (_ | k)
    · exact ⟨rfl, by decide, fun i h => by have := h.1.1; change i + 2 ≤ 65 at this; omega⟩
    · exact ⟨rfl, rfl, fun i h => by have := h.1.1; change i + 2 ≤ 0 at this; omega⟩

theorem witness_InfoTypeRowsMeanDecode :
    decode testConfig (.txn 0 0b10 (.bytes frameFB)) = .ok (.decT4 (inFrame (frameFB.drop 10))) := rfl

/-- For every type a payload one byte below MINLEN and one of MINLEN bytes. -/
theorem witness_rowAnswers :
    ∀ t : Fin 16, (inPayload (BitVec.ofNat 8 t.val) (inFrame (List.replicate (minLenOf testConfig t - 6) 0))).length
        < minLenOf testConfig t ∧
      minLenOf testConfig t ≤
        (inPayload (BitVec.ofNat 8 t.val) (inFrame (List.replicate (minLenOf testConfig t - 5) 0))).length := by
  decide +kernel

theorem witness_UnknownTypesAreReported : (inFrame []).fits = true ∧ 15 < (0x10 : Byte).toNat ∧ 15 < (0xFF : Byte).toNat := by
  decide

/-- Two type-0 frames that differ in bytes outside the layout; and two with the same fields and other prefixes. -/
theorem witness_ReadingsIgnoreUncoveredBytes :
    let f := inFrame (frameFA.drop 10)
    let g := { inFrame (frameFA.drop 10 ++ [0xAA, 0xBB]) with sourceDest := 0xFF }
    let h := { inFrame (frameFA.drop 10) with
      sourceDest := 0xFF, rf := { rfLevel := 0x80, floorNoise := 0x7F, rfQuality := 0xFF, protocol := 0x2A } }
    f.fits = true ∧ g.fits = true ∧ h.fits = true ∧ testConfig.legal = true ∧ f.fields = h.fields ∧
      minLenOf testConfig 0 ≤ (inPayload 0 f).length ∧ minLenOf testConfig 0 ≤ (inPayload 0 g).length ∧
      ∀ e ∈ spansOf testConfig.layout 0, ∀ j < e.2, byteAt (inPayload 0 f) (e.1 + j) = byteAt (inPayload 0 g) (e.1 + j) := by
  decide

theorem witness_ReadingsAreTaggedByType : ∃ r, decodeFrame testConfig frameFB = .reading r := ⟨_, rfl⟩

theorem witness_ProtocolNamesHaveTheirCodes :
    "x2delec" ∉ ["visonic433", "chacon", "dio", "rts", "somfyrts", "edisio"] := by decide

theorem witness_TokensSelectActions : haConfig.haProto ≠ some 3 ∧ haConfig.haProto = some 9 := by decide

/-- The three clauses: RTS (also as HA_PROTO), the HA protocol, and the rest. -/
theorem witness_DimByteFollowsTheFirstRule :
    protoCode haConfig (some "rts") = 11 ∧
    (protoCode haConfig (some "x2delec") ≠ 11 ∧ haConfig.haProto = some (protoCode haConfig (some "x2delec"))) ∧
    (protoCode haConfig (some "chacon") ≠ 11 ∧ haConfig.haProto ≠ some (protoCode haConfig (some "chacon"))) ∧
    "2" ∉ ["AutoLow", "EcoLow", "ConfortLow", "Auto", "Eco", "Confort", "Stop", "HorsGel"] ∧
    "Eco" ∈ ["AutoLow", "EcoLow", "ConfortLow", "Auto", "Eco", "Confort", "Stop", "HorsGel"] ∧ haConfig.legal = true := by
  decide +kernel

theorem witness_EncodeEventsStandInCodeOrder :
    ∃ t, exec (.encode (command "foo" "9" "A1")) (State.boot { testConfig with strict := true }) = .next t := ⟨_, rfl⟩

theorem witness_ActionRowsMeanEncode :
    decode haConfig (.txn 0 0b11 (.command (command "x2delec" "Stop" "A1"))) = .ok (.encOn (command "x2delec" "Stop" "A1")) :=
  rfl

/-- A generic and an HA token for OFF and ON, DIM and ASSOC; STRICT with and without everything resolved. -/
theorem witness_ActionRowsAnswer :
    (haConfig.haProto ≠ some (protoCode haConfig (some "chacon"))) ∧
    (haConfig.haProto = some (protoCode haConfig (some "x2delec"))) ∧
    "EcoLow" ∈ ["AutoLow", "EcoLow", "ConfortLow"] ∧ "HorsGel" ∈ ["Auto", "Eco", "Confort", "Stop", "HorsGel"] ∧
    (({ haConfig with strict := true } : Configuration).strict = true ∧ protoCode haConfig (some "foo") = 0) ∧
    (protoCode haConfig (some "chacon") ≠ 0 ∧ deviceId (some "A1") ≠ none) := by decide +kernel

/-- An id whose low byte is 16 and one whose low byte is 15; an instance with room for 17 bytes. -/
theorem witness_CommandFramesLoopBack :
    (∃ t, exec (.encode (command "rts" "2" "B1")) (State.boot testConfig) = .next t ∧
      .frame (assemble 11 2 16 4) ∈ t.out) ∧
    (∃ t, exec (.encode (command "rts" "2" "A16")) (State.boot testConfig) = .next t ∧
      .frame (assemble 11 2 15 4) ∈ t.out) ∧
    (State.boot boundedConfig).instanceAt 0 = Reassembler.fresh ∧ exceedsBatch boundedConfig 17 = false ∧
    exceedsCap boundedConfig 17 = false ∧ 15 < (byteAt (assemble 11 2 16 4) 9).toNat ∧
    (byteAt (assemble 11 2 15 4) 9).toNat ≤ 15 :=
  ⟨⟨_, rfl, by decide +kernel⟩, ⟨_, rfl, by decide +kernel⟩, rfl, rfl, rfl, by decide, by decide⟩

/-- A resolved name of code 16 and an unresolved one. -/
theorem witness_ProtocolByteStaysInRange :
    (State.boot testConfig).cfg.legal = true ∧ protoLookup testConfig "edisio" = some 16 ∧ protoLookup testConfig "foo" = none ∧
    (∃ t, exec (.encode (command "edisio" "1" "A1")) (State.boot testConfig) = .next t ∧ .frame (assemble 16 1 0 0) ∈ t.out) ∧
    ∃ t, exec (.encode (command "foo" "1" "A1")) (State.boot testConfig) = .next t ∧ .frame (assemble 0 1 0 0) ∈ t.out :=
  ⟨by decide, by decide +kernel, by decide +kernel, ⟨_, rfl, by decide +kernel⟩, ⟨_, rfl, by decide +kernel⟩⟩

end Sys2Proof.Tests
end

section
/-! PROOFS. The read primitive `rdLE` of R12 as a closed sum over its bytes (R41). -/

namespace Sys2Proof.Machine

/-- Shifting a weighted list of values one place up multiplies its sum by 256. -/
theorem sum_map_weight_succ (v : Nat → Nat) (ks : List Nat) :
    (ks.map (fun k => v k * 2 ^ (8 * (k + 1)))).sum = 256 * (ks.map (fun k => v k * 2 ^ (8 * k))).sum := by
  have place (k : Nat) : v k * 2 ^ (8 * (k + 1)) = 256 * (v k * 2 ^ (8 * k)) := by ring
  simp only [place, List.sum_map_mul_left]

/-- The read peels its bytes off at the low end, so the sum is split at `k = 0` and the remaining places, read from
`o + 1`, each weigh 256 times as much. -/
theorem rdLE_eq_sum (b : Bytes) (n : Nat) :
    ∀ o, rdLE b o n = ((List.range n).map (fun k => (byteAt b (o + k)).toNat * 2 ^ (8 * k))).sum := by
  induction n with
  | zero => intro o; rfl
  | succ n ih =>
    intro o
    calc rdLE b o (n + 1)
        = (byteAt b o).toNat + 256 * rdLE b (o + 1) n := rfl
      _ = (byteAt b o).toNat
            + ((List.range n).map (fun k => (byteAt b (o + 1 + k)).toNat * 2 ^ (8 * (k + 1)))).sum := by
          rw [ih, sum_map_weight_succ]
      _ = ((List.range (n + 1)).map (fun k => (byteAt b (o + k)).toNat * 2 ^ (8 * k))).sum := by
          simp [List.range_succ_eq_map, Function.comp_def, Nat.add_assoc, Nat.add_comm 1]

end Sys2Proof.Machine

namespace Sys2Proof.Proofs

/-- Settles O33, by induction on the width of the read. -/
theorem fieldReadsAreLittleEndian : Obligations.FieldReadsAreLittleEndian :=
  fun b o n => Machine.rdLE_eq_sum b n o

end Sys2Proof.Proofs
end

section
/-! PROOFS. More about the state: memories as maps, what an instruction does to one connection, and the invariant `sound`
as a predicate on reassemblers (R23 to R25, R30). -/

namespace Sys2Proof.Machine

/-! ### The reassemblers' memory -/

theorem read_eq_fresh_of_lt {m : Memory} {k : Nat} (h : ∀ e ∈ m, k < e.1) : m.read k = Reassembler.fresh := by
  rcases read_mem_or_fresh m k with hmem | hfresh
  · exact absurd (h _ hmem) (lt_irrefl k)
  · exact hfresh

/-- The head of a canonical memory is the entry of its least connection, so two canonical memories that read alike have
the same head. -/
theorem not_lt_of_read_eq {j k : Nat} {x y : Reassembler} {m n : Memory} (hm : Memory.wf ((j, x) :: m) = true)
    (hn : Memory.wf ((k, y) :: n) = true) (h : Memory.read ((j, x) :: m) j = Memory.read ((k, y) :: n) j) : ¬ j < k := by
  intro hjk
  obtain ⟨hx, -, -⟩ := (wf_cons j x m).mp hm
  obtain ⟨-, hlt, -⟩ := (wf_cons k y n).mp hn
  have hfresh : Memory.read ((k, y) :: n) j = Reassembler.fresh :=
    read_eq_fresh_of_lt (by simpa using ⟨hjk, fun a b hab => hjk.trans (hlt (a, b) hab)⟩)
  exact hx (by rw [← hfresh, ← h]; simp [Memory.read])

/-- A canonical memory is determined by what its connections read. -/
theorem wf_ext {m n : Memory} (hm : m.wf = true) (hn : n.wf = true) (h : ∀ k, m.read k = n.read k) : m = n := by
  induction m generalizing n with
  | nil =>
    cases n with
    | nil => rfl
    | cons e n =>
      obtain ⟨k, y⟩ := e
      obtain ⟨hy, -, -⟩ := (wf_cons k y n).mp hn
      exact absurd (h k) (by simpa [Memory.read] using Ne.symm hy)
  | cons d m ih =>
    obtain ⟨j, x⟩ := d
    cases n with
    | nil =>
      obtain ⟨hx, -, -⟩ := (wf_cons j x m).mp hm
      exact absurd (h j) (by simpa [Memory.read] using hx)
    | cons e n =>
      obtain ⟨k, y⟩ := e
      have hjk := not_lt_of_read_eq hm hn (h j)
      have hkj := not_lt_of_read_eq hn hm (h k).symm
      obtain rfl : j = k := by omega
      obtain ⟨-, hltm, hm'⟩ := (wf_cons j x m).mp hm
      obtain ⟨-, hltn, hn'⟩ := (wf_cons j y n).mp hn
      have hxy : x = y := by simpa [Memory.read] using h j
      have htail : ∀ i, Memory.read m i = Memory.read n i := by
        intro i
        by_cases hi : j = i
        · subst hi; rw [read_eq_fresh_of_lt hltm, read_eq_fresh_of_lt hltn]
        · simpa [Memory.read, hi] using h i
      rw [hxy, ih hm' hn' htail]

/-- Writing back what a connection reads leaves a canonical memory as it is. -/
theorem write_read_self {m : Memory} (k : Nat) (h : m.wf = true) : m.write k (m.read k) = m := by
  refine wf_ext (write_wf m k _ h) h fun j => ?_
  rw [read_write]
  split
  · next hj => rw [hj]
  · rfl

/-! ### What an instruction does to the tables, the requests and one connection -/

theorem exec_cfg {i : Instr} {s t : State} (h : exec i s = .next t) : t.cfg = s.cfg := by
  rcases exec_cases h with ⟨_, _, rfl⟩ | ⟨_, _, _, _, rfl⟩ | ⟨_, _, _, rfl⟩ <;> rfl

theorem exec_requests {i : Instr} {s t : State} (h : exec i s = .next t) : t.requests = s.requests := by
  rcases exec_cases h with ⟨_, _, rfl⟩ | ⟨_, _, _, _, rfl⟩ | ⟨_, _, _, rfl⟩ <;> rfl

/-- Everything an instruction can do to the reassembler of connection k (R30): RESET makes it fresh, PUSH to k appends,
and nothing else touches it. -/
theorem exec_instanceAt_cases {i : Instr} {s t : State} (h : exec i s = .next t) (k : Nat) :
    (i = .reset k ∧ t.instanceAt k = Reassembler.fresh) ∨
    (∃ batch, i = .push k batch ∧ exceedsBatch s.cfg batch.length = false ∧
      t.instanceAt k = (pushInto s.cfg (s.instanceAt k) batch).1 ∧
      t.out = (pushInto s.cfg (s.instanceAt k) batch).2) ∨
    (i ≠ .reset k ∧ (∀ batch, i ≠ .push k batch) ∧ t.instanceAt k = s.instanceAt k) := by
  rcases exec_cases h with ⟨conn, rfl, rfl⟩ | ⟨conn, batch, rfl, hb, rfl⟩ | ⟨hr, hp, outs, rfl⟩
  · by_cases hk : k = conn
    · subst hk; exact .inl ⟨rfl, by simp⟩
    · exact .inr (.inr ⟨by simpa using Ne.symm hk, by simp, by simp [setInstance_instanceAt_other _ _ hk]⟩)
  · by_cases hk : k = conn
    · subst hk; exact .inr (.inl ⟨batch, rfl, hb, by simp, rfl⟩)
    · exact .inr (.inr ⟨by simp, by simpa using Ne.symm hk, by simp [setInstance_instanceAt_other _ _ hk]⟩)
  · exact .inr (.inr ⟨hr k, hp k, rfl⟩)

/-- PUSH is refused exactly when the batch is longer than MAX_BATCH (R100). -/
theorem execPush_eq_refused {conn : Nat} {batch : Bytes} {s : State} {n : Refusal} :
    execPush conn batch s = .refused n ↔
      exceedsBatch s.cfg batch.length = true ∧ n = .batchTooLong batch.length := by
  unfold execPush
  cases exceedsBatch s.cfg batch.length <;> simp [eq_comm]

/-! ### BUF_CAP and MAX_BATCH -/

theorem exceedsCap_eq_false_iff (cfg : Configuration) (n : Nat) :
    exceedsCap cfg n = false ↔ ∀ cap, cfg.bufCap = some cap → n ≤ cap := by
  unfold exceedsCap
  cases cfg.bufCap <;> simp

theorem exceedsCap_eq_false_of_le {cfg : Configuration} {a b : Nat} (h : exceedsCap cfg b = false) (hab : a ≤ b) :
    exceedsCap cfg a = false := by
  rw [exceedsCap_eq_false_iff] at *
  exact fun cap hcap => hab.trans (h cap hcap)

theorem exceedsCap_zero (cfg : Configuration) : exceedsCap cfg 0 = false :=
  (exceedsCap_eq_false_iff cfg 0).mpr fun _ _ => Nat.zero_le _

/-- Only a finite BUF_CAP is ever exceeded. -/
theorem bufCap_isSome_of_exceedsCap {cfg : Configuration} {n : Nat} (h : exceedsCap cfg n = true) :
    cfg.bufCap.isSome = true := by
  unfold exceedsCap at h
  cases hc : cfg.bufCap <;> simp_all

theorem exceedsBatch_eq_false_iff (cfg : Configuration) (n : Nat) :
    exceedsBatch cfg n = false ↔ ∀ m, cfg.maxBatch = some m → n ≤ m := by
  unfold exceedsBatch
  cases cfg.maxBatch <;> simp

/-! ### What a scan leaves -/

/-- A scan leaves a stable buffer (R24, R111). -/
theorem framingOf_scan (b : Bytes) : (framingOf (scan b).2).isSome = true := by
  induction b using scan_induction with
  | stop b r hp =>
    rw [scan_of_stop hp]
    rcases scanPass_inl hp with ⟨_, _, _, hleft⟩ | ⟨_, hleft, hstable⟩
    · rw [hleft]; rfl
    · rwa [hleft]
  | frame b f rest hp ih => rwa [scan_of_frame hp]

/-- A scan takes bytes out of the buffer and adds none. -/
theorem length_scan_le (b : Bytes) : (scan b).2.length ≤ b.length := by
  induction b using scan_induction with
  | stop b r hp =>
    rw [scan_of_stop hp]
    rcases scanPass_inl hp with ⟨_, _, _, hleft⟩ | ⟨_, hleft, _⟩ <;> simp [hleft]
  | frame b f rest hp ih =>
    obtain ⟨_, _, _, _, _, hle⟩ := scanPass_inr hp
    rw [scan_of_frame hp]
    exact ih.trans (by omega)

/-! ### Sound reassemblers and sound states -/

theorem reassembler_sound_iff (cfg : Configuration) (x : Reassembler) :
    x.sound cfg = true ↔ (framingOf x.buffer).isSome = true ∧ exceedsCap cfg x.buffer.length = false ∧
      (x.fault = true → cfg.bufCap.isSome = true) := by
  cases hf : x.fault <;> simp [Reassembler.sound, hf, and_assoc]

theorem fresh_sound (cfg : Configuration) : Reassembler.fresh.sound cfg = true :=
  (reassembler_sound_iff cfg _).mpr ⟨rfl, exceedsCap_zero cfg, fun h => Bool.noConfusion h⟩

/-- PUSH keeps a reassembler sound: OVERFLOW keeps the buffer and needs a finite BUF_CAP (R25, R243), and a scan leaves a
stable buffer no longer than the one whose length was checked (R100). -/
theorem pushInto_sound {cfg : Configuration} {x : Reassembler} (batch : Bytes) (h : x.sound cfg = true) :
    (pushInto cfg x batch).1.sound cfg = true := by
  obtain ⟨hstable, hcap, hfault⟩ := (reassembler_sound_iff cfg x).mp h
  rcases pushInto_cases cfg x batch with ⟨_, e⟩ | ⟨_, hover, e⟩ | ⟨hf, hfits, e⟩ <;> rw [e]
  · exact h
  · exact (reassembler_sound_iff cfg _).mpr ⟨hstable, hcap, fun _ => bufCap_isSome_of_exceedsCap hover⟩
  · refine (reassembler_sound_iff cfg _).mpr ⟨framingOf_scan _, ?_, hfault⟩
    exact exceedsCap_eq_false_of_le hfits (by simpa using length_scan_le (x.buffer ++ batch))

theorem state_sound_iff (s : State) :
    s.sound = true ↔ s.memory.wf = true ∧ ∀ e ∈ s.memory, e.2.sound s.cfg = true := by
  simp only [State.sound, Bool.and_eq_true, List.all_eq_true]

@[simp] theorem answer_sound (s : State) (o : List Output) : (s.answer o).sound = s.sound := rfl
@[simp] theorem withRequests_sound (s : State) (rs : List Request) : (s.withRequests rs).sound = s.sound := rfl
theorem boot_sound (cfg : Configuration) : (State.boot cfg).sound = true := rfl

/-- In a sound state every connection's reassembler is sound, listed or not. -/
theorem instanceAt_sound {s : State} (h : s.sound = true) (k : Nat) : (s.instanceAt k).sound s.cfg = true := by
  obtain ⟨-, hall⟩ := (state_sound_iff s).mp h
  rcases read_mem_or_fresh s.memory k with hmem | hfresh
  · exact hall _ hmem
  · rw [State.instanceAt, hfresh]; exact fresh_sound s.cfg

theorem setInstance_sound {s : State} {x : Reassembler} (k : Nat) (h : s.sound = true) (hx : x.sound s.cfg = true) :
    (s.setInstance k x).sound = true := by
  obtain ⟨hwf, hall⟩ := (state_sound_iff s).mp h
  refine (state_sound_iff _).mpr ⟨write_wf _ k x hwf, fun e he => ?_⟩
  rcases mem_write he with rfl | he
  · exact hx
  · exact hall e he

theorem exec_sound {i : Instr} {s t : State} (hs : s.sound = true) (h : exec i s = .next t) : t.sound = true := by
  rcases exec_cases h with ⟨conn, _, rfl⟩ | ⟨conn, batch, _, _, rfl⟩ | ⟨_, _, outs, rfl⟩
  · simpa using setInstance_sound conn hs (fresh_sound s.cfg)
  · simpa using setInstance_sound conn hs (pushInto_sound batch (instanceAt_sound hs conn))
  · simpa using hs

theorem setInstance_instanceAt_self {s : State} (k : Nat) (h : s.sound = true) :
    s.setInstance k (s.instanceAt k) = s := by
  obtain ⟨hwf, -⟩ := (state_sound_iff s).mp h
  exact congrArg (fun m => { s with memory := m }) (write_read_self k hwf)

/-- An empty batch on an unfaulted sound reassembler is appended and scanned to no effect (R116). -/
theorem pushInto_nil {cfg : Configuration} {x : Reassembler} (h : x.sound cfg = true) (hf : x.fault = false) :
    pushInto cfg x [] = (x, []) := by
  obtain ⟨hstable, hcap, -⟩ := (reassembler_sound_iff cfg x).mp h
  rcases pushInto_cases cfg x [] with ⟨hf', _⟩ | ⟨_, hover, _⟩ | ⟨_, _, e⟩
  · simp [hf] at hf'
  · simp [hcap] at hover
  · rw [e, List.append_nil, scan_of_stable hstable]

end Sys2Proof.Machine

namespace Sys2Proof.Proofs

open Sys2Proof.Machine

/-- Settles O9: a step idles or runs one instruction, and every instruction keeps a state sound. -/
theorem stepKeepsSoundness : Obligations.StepKeepsSoundness := by
  intro s t hs h
  rcases step_cases h with ⟨_, rfl⟩ | ⟨_, rest, _, _, _, hexec⟩
  · exact hs
  · exact exec_sound (s := s.withRequests rest) hs hexec

/-- Settles O8. -/
theorem configurationNeverChanges : Obligations.ConfigurationNeverChanges := by
  intro s t h
  rcases step_cases h with ⟨_, rfl⟩ | ⟨_, rest, _, _, _, hexec⟩
  · rfl
  · exact exec_cfg (s := s.withRequests rest) hexec

/-- Settles O10: reset is a boot with the tables of power on. -/
theorem resetStateIsSound : Obligations.ResetStateIsSound :=
  ⟨boot_sound Configuration.initial, rfl, fun _ => ⟨fresh_buffer, fresh_fault⟩⟩

/-- Settles O12, from what an instruction can do to one connection. -/
theorem onlyTheNamedInstanceChanges : Obligations.OnlyTheNamedInstanceChanges := by
  intro i s t h
  refine ⟨exec_cfg h, exec_requests h, fun k hreset hpush => ?_⟩
  have hk : t.instanceAt k = s.instanceAt k := by
    rcases exec_instanceAt_cases h k with ⟨hi, _⟩ | ⟨batch, hi, _⟩ | ⟨_, _, hk⟩
    · exact absurd hi hreset
    · exact absurd hi (hpush batch)
    · exact hk
  exact ⟨hk, fun o => by rw [State.bufferByte, State.bufferByte, hk]⟩

/-- Settles O13: PUSH reads the state through the tables and its connection's reassembler. -/
theorem pushReadsOnlyItsInstance : Obligations.PushReadsOnlyItsInstance := by
  intro s u k batch hcfg hk
  simp only [exec_push]
  refine ⟨fun n => by rw [execPush_eq_refused, execPush_eq_refused, hcfg], fun t h => ?_⟩
  obtain ⟨hbatch, rfl⟩ := execPush_eq_next.mp h
  refine ⟨_, execPush_eq_next.mpr ⟨hcfg ▸ hbatch, rfl⟩, ?_, ?_⟩ <;> simp [hcfg, hk]

/-- Settles O28: the scan finds the buffer stable, and writing the reassembler back keeps the canonical memory. -/
theorem emptyBatchChangesNothing : Obligations.EmptyBatchChangesNothing := by
  intro s k hs hf
  have hpush : pushInto s.cfg (s.instanceAt k) [] = (s.instanceAt k, []) := pushInto_nil (instanceAt_sound hs k) hf
  have hbatch : exceedsBatch s.cfg ([] : Bytes).length = false :=
    (exceedsBatch_eq_false_iff _ _).mpr fun _ _ => Nat.zero_le _
  rw [exec_push, execPush_eq_next, hpush, setInstance_instanceAt_self k hs]
  exact ⟨hbatch, rfl⟩

/-- Settles O31: of all an instruction can do to one connection, only the OVERFLOW of a PUSH sets FAULT, and only RESET
clears it. -/
theorem faultIsStickyUntilReset : Obligations.FaultIsStickyUntilReset := by
  refine ⟨fun _ => fresh_fault, fun s t r rest i k hreq hdec hstep => ?_⟩
  rw [step_of_decode hreq hdec] at hstep
  rcases exec_instanceAt_cases hstep k with ⟨rfl, hk⟩ | ⟨batch, rfl, _, hk, hout⟩ | ⟨_, hpush, hk⟩
  · exact ⟨fun _ h => absurd rfl h, by simp, by simp [hk]⟩
  · simp only [withRequests_cfg, withRequests_instanceAt] at hk hout
    rcases pushInto_cases s.cfg (s.instanceAt k) batch with ⟨hf, e⟩ | ⟨hf, hover, e⟩ | ⟨hf, _, e⟩ <;>
      rw [e] at hk hout
    · exact ⟨fun _ _ => hk, fun _ _ _ => hout, by simp [hf]⟩
    · exact ⟨by simp [hf], by simp [hf], fun _ _ => ⟨by rw [hk], batch, rfl, hover, hout⟩⟩
    · exact ⟨by simp [hf], by simp [hf], by simp [hk, hf]⟩
  · refine ⟨fun _ _ => hk, fun _ batch hi => absurd hi (hpush batch), fun hf hf' => ?_⟩
    rw [hk, withRequests_instanceAt, hf] at hf'
    cases hf'

end Sys2Proof.Proofs
end

section
/-! PROOFS. Room for every batch (R284): with a large BUF_CAP a stable buffer with little garbage in front of its first
marker stays so, and no output is OVERFLOW. -/

namespace Sys2Proof.Machine

/-! ### Outputs without OVERFLOW -/

theorem noOverflow_iff (outs : List Output) : noOverflow outs = true ↔ ∀ n, .event (.overflow n) ∉ outs := by
  simp only [noOverflow, List.all_eq_true]
  constructor
  · intro h n hn
    exact Bool.noConfusion (h _ hn)
  · intro h o ho
    split
    · next n => exact absurd ho (h n)
    all_goals rfl

theorem noOverflow_append {xs ys : List Output} (hx : noOverflow xs = true) (hy : noOverflow ys = true) :
    noOverflow (xs ++ ys) = true := by
  unfold noOverflow at *
  rw [List.all_append, hx, hy]
  rfl

/-- A scan puts out frames and DESYNC only (R105, R108). -/
theorem scan_noOverflow (b : Bytes) : noOverflow (scan b).1 = true := by
  induction b using scan_induction with
  | stop b r hp =>
    rw [scan_of_stop hp]
    rcases scanPass_inl hp with ⟨_, _, houts, _⟩ | ⟨houts, _, _⟩ <;> rw [houts] <;> rfl
  | frame b f rest hp ih =>
    rw [scan_of_frame hp]
    exact noOverflow_append (xs := [.frame f]) rfl ih

theorem layoutOutcome_noOverflow (n : Nat) (p : Bytes) (r : Reading) : noOverflow [layoutOutcome n p r] = true := by
  rcases layoutOutcome_cases n p r with ⟨_, e⟩ | ⟨_, e⟩ <;> rw [e] <;> rfl

theorem decodeFrame_noOverflow (cfg : Configuration) (frame : Bytes) : noOverflow [decodeFrame cfg frame] = true := by
  unfold decodeFrame
  split
  · rfl
  split
  · rfl
  dsimp only
  split
  · rfl
  split
  · exact layoutOutcome_noOverflow _ _ _
  · rfl

theorem unresolved_noOverflow (pc : Byte) (ac : Option Byte) (id : Option U32) :
    noOverflow ((unresolved pc ac id).map .event) = true := by
  refine (noOverflow_iff _).mpr fun n hn => ?_
  simp [mem_unresolved] at hn

theorem encodeWith_noOverflow (cfg : Configuration) (c : Command) (ac : Option Byte) :
    noOverflow (encodeWith cfg c ac) = true := by
  unfold encodeWith
  dsimp only
  rcases encodeOutputs_cases cfg.strict (protoCode cfg c.proto) ac (deviceId c.idCode)
    (dimByte cfg (protoCode cfg c.proto) c.token c.dimIn) with ⟨_, _, e⟩ | ⟨_, e⟩ <;> rw [e]
  · exact noOverflow_append (unresolved_noOverflow _ _ _) rfl
  · exact noOverflow_append (unresolved_noOverflow _ _ _) rfl

/-- No instruction but PUSH raises OVERFLOW (R243). -/
theorem exec_noOverflow {i : Instr} {s t : State} (hp : ∀ conn batch, i ≠ .push conn batch) (h : exec i s = .next t) :
    noOverflow t.out = true := by
  cases i with
  | push conn batch => exact absurd rfl (hp conn batch)
  | decode frame => cases h; exact decodeFrame_noOverflow s.cfg frame
  | encode c | encOff c | encOn c | encDim c | encAssoc c => cases h; exact encodeWith_noOverflow s.cfg c _
  | decT0 f | decT1 f | decT2 f | decT3 f | decT4 f | decT5 f | decT6 f | decT7 f | decT8 f | decT9 f | decT10 f
  | decT11 f | decT12 f | decT13 f | decT14 f | decT15 f => cases h; exact layoutOutcome_noOverflow _ _ _
  | reset _ | decUnknown10 _ _ | decUnknown20 _ _ | decUnknown40 _ _ | decUnknown80 _ _ | encFrame _ _ _ _ =>
    cases h; rfl

/-! ### The first marker of what a scan leaves -/

/-- The frame a scan cuts out of a stable buffer and a batch reaches into the batch, since the buffer alone completes no
frame (R107); what remains is a part of the batch. -/
theorem length_rest_lt_of_stable {b batch f rest : Bytes} (hb : (framingOf b).isSome = true)
    (hp : scanPass (b ++ batch) = .inr (f, rest)) : rest.length < batch.length := by
  obtain ⟨i, hi, hcut, hf, -, -⟩ := scanPass_inr hp
  obtain ⟨⟨hi2, m1, m2⟩, -⟩ := (findMarker_eq_some _ i).mp hi
  have hlen : b.length + batch.length = i + (5 + rdLE (b ++ batch) (i + 3) 2) + rest.length := by
    have := congrArg List.length hcut
    simp only [List.length_append, List.length_take, hf, hdr] at this hi2
    omega
  have hend : b.length < i + 5 + rdLE (b ++ batch) (i + 3) 2 := by
    cases hm : findMarker b with
    | none =>
      have hno : ¬ i + 2 ≤ b.length := fun hle => (findMarker_eq_none b).mp hm i
        ⟨hle, by rwa [byteAt_append_left (by omega)] at m1, by rwa [byteAt_append_left (by omega)] at m2⟩
      omega
    | some j =>
      obtain rfl : j = i := by simpa [findMarker_append batch hm] using hi
      have hwait := (framingOf_isSome_of_some hm).mp hb
      by_cases hheader : b.length < j + 5
      · omega
      · rwa [rdLE_append_left (by omega)]
  omega

/-- With at most 62 + m bytes of garbage in front of its first marker, a stable buffer keeps this through the append of a
batch of at most m bytes and the scan: without a marker it has at most 64 bytes (R105), and behind a cut frame there
are only bytes of the batch. -/
theorem firstMarker_scan_le {b batch : Bytes} {m : Nat} (hb : (framingOf b).isSome = true)
    (hfirst : ∀ i, firstMarkerAt b i → i ≤ 62 + m) (hbatch : batch.length ≤ m) {i : Nat}
    (hi : firstMarkerAt (scan (b ++ batch)).2 i) : i ≤ 62 + m := by
  cases hp : scanPass (b ++ batch) with
  | inl r =>
    rw [scan_of_stop hp] at hi
    rcases scanPass_inl hp with ⟨_, _, _, hleft⟩ | ⟨_, hleft, _⟩
    · simp [hleft, firstMarkerAt, markerAt] at hi
    · rw [hleft] at hi
      cases hm : findMarker b with
      | none =>
        have hshort := (framingOf_isSome_of_none hm).mp hb
        have hlen := hi.1.1
        rw [List.length_append] at hlen
        omega
      | some j =>
        have hj := findMarker_append batch hm
        obtain rfl : j = i := by simpa [hj] using (findMarker_eq_some _ i).mpr hi
        exact hfirst j ((findMarker_eq_some b j).mp hm)
  | inr p =>
    obtain ⟨f, rest⟩ := p
    rw [scan_of_frame hp] at hi
    have hrest := length_rest_lt_of_stable hb hp
    have hleft := length_scan_le rest
    have hlen := hi.1.1
    simp only at hlen
    omega

/-! ### Roomy reassemblers -/

/-- What `roomy m` says of one reassembler. -/
def Reassembler.hasRoom (m : Nat) (x : Reassembler) : Prop :=
  x.fault = false ∧ (framingOf x.buffer).isSome = true ∧ ∀ i, firstMarkerAt x.buffer i → i ≤ 62 + m

/-- MAX_BATCH is m and a finite BUF_CAP is at least the bound of R284. -/
def roomyBounds (m : Nat) (cfg : Configuration) : Prop :=
  cfg.maxBatch = some m ∧ ∀ cap, cfg.bufCap = some cap → 65603 + 2 * m ≤ cap

theorem roomy_iff (m : Nat) (s : State) :
    roomy m s ↔ roomyBounds m s.cfg ∧ ∀ k, (s.instanceAt k).hasRoom m :=
  and_assoc.symm

theorem fresh_hasRoom (m : Nat) : Reassembler.fresh.hasRoom m :=
  ⟨rfl, rfl, fun i hi => by simp [firstMarkerAt, markerAt] at hi⟩

/-- A stable buffer is shorter than its garbage, a header and the longest payload (R24, R107). -/
theorem length_buffer_le_of_hasRoom {m : Nat} {x : Reassembler} (h : x.hasRoom m) : x.buffer.length ≤ 65601 + m := by
  obtain ⟨-, hstable, hfirst⟩ := h
  cases hm : findMarker x.buffer with
  | none =>
    have := (framingOf_isSome_of_none hm).mp hstable
    omega
  | some i =>
    have hi := hfirst i ((findMarker_eq_some _ i).mp hm)
    have hwait := (framingOf_isSome_of_some hm).mp hstable
    have hlen := rdLE_lt x.buffer 2 (i + 3)
    omega

/-- PUSH of a batch within MAX_BATCH finds room, raises no OVERFLOW and leaves room (R284). -/
theorem pushInto_hasRoom {cfg : Configuration} {m : Nat} {x : Reassembler} {batch : Bytes}
    (hcfg : roomyBounds m cfg) (hx : x.hasRoom m) (hbatch : exceedsBatch cfg batch.length = false) :
    (pushInto cfg x batch).1.hasRoom m ∧ noOverflow (pushInto cfg x batch).2 = true := by
  obtain ⟨hmax, hcap⟩ := hcfg
  have hle : batch.length ≤ m := (exceedsBatch_eq_false_iff cfg _).mp hbatch m hmax
  have hfits : exceedsCap cfg (x.buffer.length + batch.length) = false := by
    refine (exceedsCap_eq_false_iff cfg _).mpr fun cap h => ?_
    have := hcap cap h
    have := length_buffer_le_of_hasRoom hx
    omega
  obtain ⟨hf, hstable, hfirst⟩ := hx
  rcases pushInto_cases cfg x batch with ⟨hf', _⟩ | ⟨_, hover, _⟩ | ⟨_, _, e⟩
  · simp [hf] at hf'
  · simp [hfits] at hover
  · rw [e]
    exact ⟨⟨hf, framingOf_scan _, fun i hi => firstMarker_scan_le hstable hfirst hle hi⟩, scan_noOverflow _⟩

theorem exec_roomy {i : Instr} {s t : State} {m : Nat} (hs : roomy m s) (h : exec i s = .next t) :
    roomy m t ∧ noOverflow t.out = true := by
  obtain ⟨hcfg, hroom⟩ := (roomy_iff m s).mp hs
  refine ⟨(roomy_iff m t).mpr ⟨exec_cfg h ▸ hcfg, fun k => ?_⟩, ?_⟩
  · rcases exec_instanceAt_cases h k with ⟨_, hk⟩ | ⟨batch, _, hbatch, hk, _⟩ | ⟨_, _, hk⟩ <;> rw [hk]
    · exact fresh_hasRoom m
    · exact (pushInto_hasRoom hcfg (hroom k) hbatch).1
    · exact hroom k
  · rcases exec_cases h with ⟨_, rfl, rfl⟩ | ⟨conn, batch, _, hbatch, rfl⟩ | ⟨_, hpush, _⟩
    · rfl
    · exact (pushInto_hasRoom hcfg (hroom conn) hbatch).2
    · exact exec_noOverflow hpush h

/-! ### A stream of batches -/

theorem pushes_cons {k : Nat} {s t u : State} {batch : Bytes} {batches : List Bytes} {outs : List Output}
    (h : execPush k batch s = .next t) (hrest : State.pushes k t batches = some (u, outs)) :
    State.pushes k s (batch :: batches) = some (u, t.out ++ outs) := by
  simp only [State.pushes, h, hrest]

/-- A stream of batches within MAX_BATCH is pushed to the end with no OVERFLOW (R284). -/
theorem pushes_hasRoom {k m : Nat} {batches : List Bytes} (hbatches : ∀ b ∈ batches, b.length ≤ m) :
    ∀ {s : State}, roomyBounds m s.cfg → (s.instanceAt k).hasRoom m →
      ∃ t outs, State.pushes k s batches = some (t, outs) ∧ noOverflow outs = true ∧ (t.instanceAt k).hasRoom m := by
  induction batches with
  | nil => exact fun _ hroom => ⟨_, [], rfl, rfl, hroom⟩
  | cons b bs ih =>
    intro s hcfg hroom
    obtain ⟨hb, hbs⟩ := List.forall_mem_cons.mp hbatches
    have hbatch : exceedsBatch s.cfg b.length = false := by
      refine (exceedsBatch_eq_false_iff _ _).mpr fun n hn => ?_
      obtain rfl : m = n := by simpa [hcfg.1] using hn
      exact hb
    obtain ⟨hroom', hout⟩ := pushInto_hasRoom hcfg hroom hbatch
    have hpush := execPush_eq_next (conn := k).mpr ⟨hbatch, rfl⟩
    obtain ⟨t, outs, hrun, houts, ht⟩ := ih hbs
      (s := (s.setInstance k (pushInto s.cfg (s.instanceAt k) b).1).answer (pushInto s.cfg (s.instanceAt k) b).2)
      hcfg (by simpa using hroom')
    exact ⟨t, _, pushes_cons hpush hrun, noOverflow_append hout houts, ht⟩

end Sys2Proof.Machine

namespace Sys2Proof.Proofs

open Sys2Proof.Machine

/-- Settles O60: a boot lists no reassembler, and every instruction keeps a state roomy and raises no OVERFLOW in it. -/
theorem stepKeepsRoomAndNeverOverflows : Obligations.StepKeepsRoomAndNeverOverflows := by
  refine ⟨fun cfg m hmax hcap => (roomy_iff m _).mpr ⟨⟨hmax, hcap⟩, fun _ => fresh_hasRoom m⟩, ?_⟩
  intro s t m hs h
  rcases step_cases h with ⟨hidle, rfl⟩ | ⟨_, rest, _, _, _, hexec⟩
  · exact ⟨hs, fun hne => absurd hidle hne⟩
  · obtain ⟨ht, hout⟩ := exec_roomy (s := s.withRequests rest) hs hexec
    exact ⟨ht, fun _ => hout⟩

/-- Settles O32, by induction on the batches with room in the connection's reassembler as the invariant. -/
theorem largeCapacityNeverOverflows : Obligations.LargeCapacityNeverOverflows := by
  intro s k m cap batches hmax hcap hle hfresh hbatches
  have hcfg : roomyBounds m s.cfg :=
    ⟨hmax, fun cap' hcap' => by rw [hcap] at hcap'; cases hcap'; exact hle⟩
  obtain ⟨t, outs, hrun, houts, hfault, -, -⟩ := pushes_hasRoom hbatches hcfg (hfresh ▸ fresh_hasRoom m)
  exact ⟨t, outs, hrun, houts, hfault⟩

end Sys2Proof.Proofs
end

section
/-! PROOFS. The tables the decoder and the encoder read (R27, R28), and a request that decodes as the encoding of its
instruction (R79). -/

namespace Sys2Proof.Machine

/-! ### The tables that are read -/

/-- The tables of the decoder beside values of power on for all others. -/
def decoderTables (cfg : Configuration) : Configuration :=
  { Configuration.initial with layout := cfg.layout, flagBit := cfg.flagBit }

/-- The tables of the encoder beside values of power on for all others. -/
def encoderTables (cfg : Configuration) : Configuration :=
  { Configuration.initial with
    protoExtra := cfg.protoExtra, actionCode := cfg.actionCode, haProto := cfg.haProto, haDim := cfg.haDim,
    strict := cfg.strict }

theorem readingOf_decoderTables (cfg : Configuration) (t : Fin 16) (p : Bytes) :
    readingOf (decoderTables cfg) t p = readingOf cfg t p := by
  fin_cases t <;> rfl

theorem decodeFrame_decoderTables (cfg : Configuration) (frame : Bytes) :
    decodeFrame (decoderTables cfg) frame = decodeFrame cfg frame := by
  have hmin : ∀ t, minLenOf (decoderTables cfg) t = minLenOf cfg t := fun _ => rfl
  simp only [decodeFrame, hmin, readingOf_decoderTables]

theorem encodeCommand_encoderTables (cfg : Configuration) (c : Command) :
    encodeCommand (encoderTables cfg) c = encodeCommand cfg c := by
  have hproto : protoCode (encoderTables cfg) c.proto = protoCode cfg c.proto := rfl
  have haction : commandAction (encoderTables cfg) c = commandAction cfg c := rfl
  have hcode : actionCode (encoderTables cfg) = actionCode cfg := rfl
  have hdim : ∀ pc, dimByte (encoderTables cfg) pc = dimByte cfg pc := fun _ => rfl
  have hstrict : (encoderTables cfg).strict = cfg.strict := rfl
  simp only [encodeCommand, encodeWith, hproto, haction, hcode, hdim, hstrict]

end Sys2Proof.Machine

namespace Sys2Proof

open Sys2Proof.Machine

/-! ### Requests and their instructions -/

/-- The operand bytes of a DEC row; none for the other rows. -/
def inFrameOf (i : Instr) : Option InFrame :=
  match i with
  | .decT0 f | .decT1 f | .decT2 f | .decT3 f | .decT4 f | .decT5 f | .decT6 f | .decT7 f | .decT8 f | .decT9 f
  | .decT10 f | .decT11 f | .decT12 f | .decT13 f | .decT14 f | .decT15 f => some f
  | .decUnknown10 _ f | .decUnknown20 _ f | .decUnknown40 _ f | .decUnknown80 _ f => some f
  | .reset _ | .push _ _ | .decode _ | .encode _ | .encFrame _ _ _ _ | .encOff _ | .encOn _ | .encDim _
  | .encAssoc _ => none

/-- The row an infoType selects holds the frame's other bytes. -/
theorem inFrameOf_selectInfoType (t : Byte) (f : InFrame) : inFrameOf (selectInfoType t f) = some f := by
  unfold selectInfoType
  split
  case h_17 =>
    split
    · rfl
    split
    · rfl
    split <;> rfl
  all_goals rfl

/-- A DEC row is encoded as a DECODE of its infoType and its operand bytes. -/
theorem encode_of_infoTypeOf {i : Instr} {t : Byte} {f : InFrame} (ht : infoTypeOf i = some t)
    (hf : inFrameOf i = some f) : encode i = decodeRequest t f := by
  cases i <;> cases ht <;> cases hf <;> rfl

/-- A DEC row is well formed when its frame fits the length field (R61). -/
theorem wellFormed_of_inFrameOf {i : Instr} {f : InFrame} (cfg : Configuration) (hf : inFrameOf i = some f) :
    i.wellFormed cfg = f.fits := by
  cases i <;> cases hf <;> rfl

theorem encode_selectInfoType (t : Byte) (f : InFrame) : encode (selectInfoType t f) = decodeRequest t f :=
  encode_of_infoTypeOf (infoTypeOf_selectInfoType t f) (inFrameOf_selectInfoType t f)

/-- Every row a command selects is encoded as an ENCODE of the command. -/
theorem encode_selectCommand (cfg : Configuration) (c : Command) : encode (selectCommand cfg c) = encodeRequest c := by
  rcases selectCommand_cases cfg c with ⟨_, e⟩ | ⟨_, e⟩ | ⟨_, e⟩ | ⟨_, e⟩ | ⟨_, e⟩ <;> rw [e] <;> rfl

theorem wellFormed_selectCommand (cfg : Configuration) (c : Command) :
    (selectCommand cfg c).wellFormed cfg = true := by
  rcases selectCommand_cases cfg c with ⟨h, e⟩ | ⟨h, e⟩ | ⟨h, e⟩ | ⟨h, e⟩ | ⟨h, e⟩ <;>
    simp [e, h, Instr.wellFormed]

/-- A command frame word that decodes is the one ASSEMBLE writes of its four values (R66, R214). -/
theorem decodeCommandFrame_eq_ok {word : Bytes} {i : Instr} (h : decodeCommandFrame word = .ok i) :
    ∃ pc ac id dv, i = .encFrame pc ac id dv ∧ pc.toNat ≤ 16 ∧ word = assemble pc ac id dv := by
  unfold decodeCommandFrame at h
  split at h
  · next s1 s2 sd l0 l1 ft cl pc ac d0 d1 d2 d3 dv bu qu re =>
    split at h
    · next hconst =>
      split at h
      · next hpc =>
        obtain ⟨rfl, rfl, rfl, rfl, rfl, rfl, rfl, rfl, rfl, rfl⟩ := hconst
        obtain ⟨h0, h1, h2, h3⟩ := bytes_of_id d0 d1 d2 d3
        cases h
        refine ⟨pc, ac, d3 ++ d2 ++ d1 ++ d0, dv, rfl, hpc, ?_⟩
        rw [assemble, h0, h1, h2, h3]
        rfl
      · cases h
    · cases h
  · cases h

/-- Everything a request that decodes can be (R79): RESET and PUSH with the operand each takes, a DECODE with an infoType
or without one, an ENCODE, or a command frame word. -/
theorem decode_eq_ok {cfg : Configuration} {r : Request} {i : Instr} (h : decode cfg r = .ok i) :
    (∃ conn, r = .txn conn 0b00 .none ∧ i = .reset conn) ∨
    (∃ conn batch, r = .txn conn 0b01 (.bytes batch) ∧ i = .push conn batch) ∨
    (∃ conn t f, r = .txn conn 0b10 (.bytes (inFrameBytes t f)) ∧ f.fits = true ∧ i = selectInfoType t f) ∨
    (∃ conn frame, r = .txn conn 0b10 (.bytes frame) ∧ discriminant frame = none ∧ i = .decode frame) ∨
    (∃ conn c, r = .txn conn 0b11 (.command c) ∧ i = selectCommand cfg c) ∨
    (∃ pc ac id dv, r = .cmd17 (assemble pc ac id dv) ∧ pc.toNat ≤ 16 ∧ i = .encFrame pc ac id dv) := by
  cases r with
  | cmd17 word =>
    obtain ⟨pc, ac, id, dv, rfl, hpc, rfl⟩ := decodeCommandFrame_eq_ok h
    exact .inr (.inr (.inr (.inr (.inr ⟨pc, ac, id, dv, rfl, hpc, rfl⟩))))
  | txn conn op operand =>
    have hops : ∀ op : BitVec 2, op = 0b00 ∨ op = 0b01 ∨ op = 0b10 ∨ op = 0b11 := by decide
    rcases hops op with rfl | rfl | rfl | rfl
    · cases operand with
      | none => cases h; exact .inl ⟨conn, rfl, rfl⟩
      | bytes _ | command _ => cases h
    · cases operand with
      | bytes batch => cases h; exact .inr (.inl ⟨conn, batch, rfl, rfl⟩)
      | none | command _ => cases h
    · cases operand with
      | bytes frame =>
        rcases decode_op_decode cfg conn frame with ⟨t, f, hd, e⟩ | ⟨hd, e⟩ <;> rw [e] at h <;> cases h
        · obtain ⟨rfl, hfits⟩ := discriminant_eq_some hd
          exact .inr (.inr (.inl ⟨conn, t, f, rfl, hfits, rfl⟩))
        · exact .inr (.inr (.inr (.inl ⟨conn, frame, rfl, hd, rfl⟩)))
      | none | command _ => cases h
    · cases operand with
      | command c => cases h; exact .inr (.inr (.inr (.inr (.inl ⟨conn, c, rfl, rfl⟩))))
      | none | bytes _ => cases h

end Sys2Proof

namespace Sys2Proof.Proofs

open Sys2Proof.Machine

/-- Settles O5, by the forms a request that decodes can have. -/
theorem encodeInvertsDecode : Obligations.EncodeInvertsDecode := by
  intro cfg r i h
  rcases decode_eq_ok h with ⟨conn, rfl, rfl⟩ | ⟨conn, batch, rfl, rfl⟩ | ⟨conn, t, f, rfl, hfits, rfl⟩ |
    ⟨conn, frame, rfl, hd, rfl⟩ | ⟨conn, c, rfl, rfl⟩ | ⟨pc, ac, id, dv, rfl, hpc, rfl⟩
  · exact ⟨rfl, .inl rfl⟩
  · exact ⟨rfl, .inl rfl⟩
  · exact ⟨(wellFormed_of_inFrameOf cfg (inFrameOf_selectInfoType t f)).trans hfits,
      .inr ⟨conn, _, _, rfl, by decide, encode_selectInfoType t f⟩⟩
  · exact ⟨by simp [Instr.wellFormed, hd], .inr ⟨conn, _, _, rfl, by decide, rfl⟩⟩
  · exact ⟨wellFormed_selectCommand cfg c, .inr ⟨conn, _, _, rfl, by decide, encode_selectCommand cfg c⟩⟩
  · exact ⟨by simpa [Instr.wellFormed] using hpc, .inl rfl⟩

/-- Settles O14: the outcome is that under the decoder's tables alone. -/
theorem decoderReadsOnlyItsTables : Obligations.DecoderReadsOnlyItsTables := by
  intro s u frame hlayout hflag
  have htables : decoderTables s.cfg = decoderTables u.cfg := by simp only [decoderTables, hlayout, hflag]
  have houtcome : decodeFrame s.cfg frame = decodeFrame u.cfg frame := by
    rw [← decodeFrame_decoderTables s.cfg, htables, decodeFrame_decoderTables]
  exact ⟨decodeFrame s.cfg frame, exec_decode frame s, houtcome ▸ exec_decode frame u⟩

/-- Settles O15: the answer is that under the encoder's tables alone. -/
theorem encoderReadsOnlyItsTables : Obligations.EncoderReadsOnlyItsTables := by
  intro s u c hproto haction hha hdim hstrict
  have htables : encoderTables s.cfg = encoderTables u.cfg := by
    simp only [encoderTables, hproto, haction, hha, hdim, hstrict]
  have houtputs : encodeCommand s.cfg c = encodeCommand u.cfg c := by
    rw [← encodeCommand_encoderTables s.cfg, htables, encodeCommand_encoderTables]
  exact ⟨encodeCommand s.cfg c, exec_encode c s, houtputs ▸ exec_encode c u⟩

end Sys2Proof.Proofs
end

section
/-! PROOFS. The frames a scan cuts out of a stream (R49, R101, R108), the step of a request that decodes (R47, R79), and a
PUSH beside an ENCODE (R51). -/

namespace Sys2Proof.Machine

/-! ### Garbage and frames of a stream -/

/-- A marker stays where it is when bytes are appended. -/
theorem markerAt_append_left {b : Bytes} {i : Nat} (t : Bytes) (h : markerAt b i) : markerAt (b ++ t) i := by
  obtain ⟨hle, h1, h2⟩ := h
  refine ⟨by rw [List.length_append]; omega, ?_, ?_⟩
  · rwa [byteAt_append_left (by omega)]
  · rwa [byteAt_append_left (by omega)]

/-- A pair of garbage and a well-formed frame, where no marker starts in the garbage, not even with its second byte in the
frame (R104, R108). -/
def isCut (c : Bytes × Bytes) : Prop :=
  frameOk c.2 = true ∧ ∀ i < c.1.length, ¬ markerAt (c.1 ++ c.2) i

/-- A pass that goes on takes garbage and a frame from the front of the buffer. -/
theorem isCut_of_scanPass {b f rest : Bytes} (h : scanPass b = .inr (f, rest)) :
    ∃ garbage, b = garbage ++ f ++ rest ∧ isCut (garbage, f) := by
  obtain ⟨i, hi, hb, -, hf, -⟩ := scanPass_inr h
  obtain ⟨-, hfirst⟩ := (findMarker_eq_some b i).mp hi
  refine ⟨b.take i, hb, hf, fun j hj hm => ?_⟩
  have hmb := markerAt_append_left rest hm
  rw [← hb] at hmb
  exact hfirst j (hj.trans_le (List.length_take_le i b)) hmb

/-- The stream b is these cuts and a tail; the outputs are the frames of the cuts in order, and the tail is the buffer
left, or was dropped under a DESYNC of its length (R49, R105). -/
def partitionsAs (b : Bytes) (outs : List Output) (left : Bytes) (cuts : List (Bytes × Bytes)) (tail : Bytes) : Prop :=
  b = (cuts.flatMap (fun c => c.1 ++ c.2)) ++ tail ∧ (∀ c ∈ cuts, isCut c) ∧
    ((outs = cuts.map (fun c => .frame c.2) ∧ left = tail) ∨
      (outs = cuts.map (fun c => .frame c.2) ++ [.event (.desync tail.length)] ∧ left = []))

theorem partitionsAs_kept (b : Bytes) : partitionsAs b [] b [] b :=
  ⟨rfl, by simp, .inl ⟨rfl, rfl⟩⟩

theorem partitionsAs_dropped (b : Bytes) : partitionsAs b [.event (.desync b.length)] [] [] b :=
  ⟨rfl, by simp, .inr ⟨rfl, rfl⟩⟩

theorem partitionsAs_cons {garbage f b left tail : Bytes} {outs : List Output} {cuts : List (Bytes × Bytes)}
    (hcut : isCut (garbage, f)) (h : partitionsAs b outs left cuts tail) :
    partitionsAs (garbage ++ f ++ b) (.frame f :: outs) left ((garbage, f) :: cuts) tail := by
  obtain ⟨rfl, hcuts, hends⟩ := h
  refine ⟨by simp, List.forall_mem_cons.mpr ⟨hcut, hcuts⟩, ?_⟩
  rcases hends with ⟨rfl, rfl⟩ | ⟨rfl, rfl⟩
  · exact .inl ⟨rfl, rfl⟩
  · exact .inr ⟨rfl, rfl⟩

/-- A scan accounts for every byte of its buffer. -/
theorem scan_partitions (b : Bytes) : ∃ cuts tail, partitionsAs b (scan b).1 (scan b).2 cuts tail := by
  induction b using scan_induction with
  | stop b r hp =>
    obtain ⟨outs, left⟩ := r
    rw [scan_of_stop hp]
    rcases scanPass_inl hp with ⟨-, -, rfl, rfl⟩ | ⟨rfl, rfl, -⟩
    · exact ⟨[], b, partitionsAs_dropped b⟩
    · exact ⟨[], left, partitionsAs_kept left⟩
  | frame b f rest hp ih =>
    obtain ⟨cuts, tail, hrest⟩ := ih
    obtain ⟨garbage, hb, hcut⟩ := isCut_of_scanPass hp
    rw [scan_of_frame hp, hb]
    exact ⟨(garbage, f) :: cuts, tail, partitionsAs_cons hcut hrest⟩

/-! ### A PUSH that appends and scans -/

theorem pushInto_of_pushRuns {s : State} {k : Nat} {batch : Bytes} (h : pushRuns s k batch) :
    pushInto s.cfg (s.instanceAt k) batch =
      ({ s.instanceAt k with buffer := (scan ((s.instanceAt k).buffer ++ batch)).2 },
        (scan ((s.instanceAt k).buffer ++ batch)).1) := by
  obtain ⟨-, hf, hcap⟩ := h
  rcases pushInto_cases s.cfg (s.instanceAt k) batch with ⟨hf', -⟩ | ⟨-, hover, -⟩ | ⟨-, -, e⟩
  · simp [hf] at hf'
  · simp [hcap] at hover
  · exact e

/-- A PUSH that runs answers and leaves what the scan of the old buffer and the batch gives (R100). -/
theorem exec_push_of_pushRuns {s t : State} {k : Nat} {batch : Bytes} (hruns : pushRuns s k batch)
    (h : exec (.push k batch) s = .next t) :
    t.out = (scan ((s.instanceAt k).buffer ++ batch)).1 ∧
      (t.instanceAt k).buffer = (scan ((s.instanceAt k).buffer ++ batch)).2 := by
  obtain ⟨-, rfl⟩ := execPush_eq_next.mp (exec_push k batch s ▸ h)
  rw [pushInto_of_pushRuns hruns]
  simp

end Sys2Proof.Machine

namespace Sys2Proof.Proofs

open Sys2Proof.Machine

/-- Settles O25: the PUSH scans the old buffer and the batch, and a scan partitions what it is given, by induction along
its passes. -/
theorem emittedFramesPartitionTheStream : Obligations.EmittedFramesPartitionTheStream := by
  intro s t k batch hruns h
  obtain ⟨hout, hbuffer⟩ := exec_push_of_pushRuns hruns h
  rw [hout, hbuffer]
  exact scan_partitions ((s.instanceAt k).buffer ++ batch)

/-- Settles O1: what decodes is well formed since it is read back from its encoding. -/
theorem stepRunsDecodedInstruction : Obligations.StepRunsDecodedInstruction := by
  intro s r rest i hreq hdec
  obtain ⟨hwf, -⟩ := encodeInvertsDecode s.cfg r i hdec
  exact ⟨hwf, step_of_decode hreq hdec⟩

/-- Settles O16: ENCODE writes the answer alone and reads the tables alone, which PUSH keeps; PUSH reads no answer. -/
theorem inboundAndOutboundCommute : Obligations.InboundAndOutboundCommute := by
  intro s t k batch c h
  have hcfg : t.cfg = s.cfg := exec_cfg h
  obtain ⟨hbatch, rfl⟩ := execPush_eq_next.mp (exec_push k batch s ▸ h)
  have hpush := (execPush_eq_next (s := s.answer (encodeCommand s.cfg c)) (conn := k)).mpr ⟨hbatch, rfl⟩
  refine ⟨_, _, _, exec_encode c s, exec_encode c _, hpush, ?_, rfl, rfl, rfl⟩
  rw [answer_out, answer_out, hcfg]

end Sys2Proof.Proofs
end

section
/-! PROOFS. Instructions and their requests: the rows of the infoType byte (R73, R74), the action rows, and the command
frame word (R65, R66), each read back from its encoding. -/

namespace Sys2Proof

open Sys2Proof.Machine

/-! ### The masks of the four rows of unknown types (R74), as ranges of the infoType byte -/

theorem and_F0_eq_10_iff : ∀ t : Byte, t &&& 0xF0 = 0x10 ↔ 16 ≤ t.toNat ∧ t.toNat < 32 := by decide

theorem and_E0_eq_20_iff : ∀ t : Byte, t &&& 0xE0 = 0x20 ↔ 32 ≤ t.toNat ∧ t.toNat < 64 := by decide

theorem and_C0_eq_40_iff : ∀ t : Byte, t &&& 0xC0 = 0x40 ↔ 64 ≤ t.toNat ∧ t.toNat < 128 := by decide

theorem and_80_eq_80_iff : ∀ t : Byte, t &&& 0x80 = 0x80 ↔ 128 ≤ t.toNat := by decide

/-- The row of an unknown type is picked by the range of its infoType byte. -/
theorem selectInfoType_of_unknown {t : Byte} (h : 16 ≤ t.toNat) (f : InFrame) :
    selectInfoType t f =
      if t.toNat < 32 then .decUnknown10 (t.setWidth 4) f
      else if t.toNat < 64 then .decUnknown20 (t.setWidth 5) f
      else if t.toNat < 128 then .decUnknown40 (t.setWidth 6) f
      else .decUnknown80 (t.setWidth 7) f := by
  unfold selectInfoType
  split
  case h_17 =>
    simp only [and_F0_eq_10_iff, and_E0_eq_20_iff, and_C0_eq_40_iff]
    grind
  all_goals omega

/-- A byte put together from the bit 1, behind zeros, and w lower bits. -/
theorem toNat_one_append {v w : Nat} (hv : 0 < v) (low : BitVec w) : (1#v ++ low).toNat = 2 ^ w + low.toNat := by
  rw [BitVec.toNat_append, ← Nat.shiftLeft_add_eq_or_of_lt low.isLt, BitVec.toNat_ofNat,
    Nat.mod_eq_of_lt (Nat.one_lt_two_pow hv.ne'), Nat.shiftLeft_eq, Nat.one_mul]

theorem toNat_unknown10 (low : BitVec 4) : (0x1#4 ++ low).toNat = 16 + low.toNat := toNat_one_append (by decide) low

theorem toNat_unknown20 (low : BitVec 5) : (0x1#3 ++ low).toNat = 32 + low.toNat := toNat_one_append (by decide) low

theorem toNat_unknown40 (low : BitVec 6) : (0x1#2 ++ low).toNat = 64 + low.toNat := toNat_one_append (by decide) low

theorem toNat_unknown80 (low : BitVec 7) : (0x1#1 ++ low).toNat = 128 + low.toNat := toNat_one_append (by decide) low

/-- A DEC row is the one its infoType byte selects for its operand bytes (R73, R74). -/
theorem selectInfoType_of_infoTypeOf {i : Instr} {t : Byte} {f : InFrame} (ht : infoTypeOf i = some t)
    (hf : inFrameOf i = some f) : selectInfoType t f = i := by
  cases i with
  | decUnknown10 low g =>
    cases ht; cases hf
    have hn := toNat_unknown10 low
    rw [selectInfoType_of_unknown (by omega), if_pos (by omega), BitVec.setWidth_append_eq_right]
  | decUnknown20 low g =>
    cases ht; cases hf
    have hn := toNat_unknown20 low
    rw [selectInfoType_of_unknown (by omega), if_neg (by omega), if_pos (by omega),
      BitVec.setWidth_append_eq_right]
  | decUnknown40 low g =>
    cases ht; cases hf
    have hn := toNat_unknown40 low
    rw [selectInfoType_of_unknown (by omega), if_neg (by omega), if_neg (by omega), if_pos (by omega),
      BitVec.setWidth_append_eq_right]
  | decUnknown80 low g =>
    cases ht; cases hf
    have hn := toNat_unknown80 low
    rw [selectInfoType_of_unknown (by omega), if_neg (by omega), if_neg (by omega), if_neg (by omega),
      BitVec.setWidth_append_eq_right]
  | _ => cases ht <;> cases hf <;> rfl

/-! ### The place of an infoType byte in the table's rows -/

/-- The row of the table that an infoType byte belongs to: its own below 16, and one for each range of unknown types. -/
def infoTypeRowIndex (t : Byte) : Nat :=
  if t.toNat < 16 then t.toNat
  else if t.toNat < 32 then 16
  else if t.toNat < 64 then 17
  else if t.toNat < 128 then 18
  else 19

theorem infoTypeRowIndex_lt (t : Byte) : infoTypeRowIndex t < 20 := by
  unfold infoTypeRowIndex
  split_ifs <;> omega

/-- A DEC row stands in the table at the place of its infoType byte. -/
theorem infoTypeRowOf_of_infoTypeOf {i : Instr} {t : Byte} (ht : infoTypeOf i = some t) :
    infoTypeRowOf i = some (infoTypeRowIndex t) := by
  cases i with
  | decUnknown10 low _ =>
    cases ht
    rw [infoTypeRowIndex, toNat_unknown10, if_neg (by omega), if_pos (by omega)]
    rfl
  | decUnknown20 low _ =>
    cases ht
    rw [infoTypeRowIndex, toNat_unknown20, if_neg (by omega), if_neg (by omega), if_pos (by omega)]
    rfl
  | decUnknown40 low _ =>
    cases ht
    rw [infoTypeRowIndex, toNat_unknown40, if_neg (by omega), if_neg (by omega), if_neg (by omega), if_pos (by omega)]
    rfl
  | decUnknown80 low _ =>
    cases ht
    rw [infoTypeRowIndex, toNat_unknown80, if_neg (by omega), if_neg (by omega), if_neg (by omega), if_neg (by omega)]
    rfl
  | _ => cases ht <;> rfl

theorem infoTypeRows_known : ∀ j < 16, infoTypeRows[j]? = some (0xFF, BitVec.ofNat 8 j) := by decide

theorem exists_infoTypeRow_iff {j : Nat} {mask value : Byte} (hrow : infoTypeRows[j]? = some (mask, value)) (t : Byte) :
    (∃ row, infoTypeRows[j]? = some row ∧ t &&& row.1 = row.2) ↔ t &&& mask = value := by
  simp [hrow]

/-- The mask and match of a row fit the bytes of that row and no others. -/
theorem infoTypeRow_fits_iff (t : Byte) {j : Nat} (hj : j < 20) :
    (∃ row, infoTypeRows[j]? = some row ∧ t &&& row.1 = row.2) ↔ j = infoTypeRowIndex t := by
  unfold infoTypeRowIndex
  obtain hknown | rfl | rfl | rfl | rfl : j < 16 ∨ j = 16 ∨ j = 17 ∨ j = 18 ∨ j = 19 := by omega
  · have hmask : t &&& 0xFF = t := BitVec.and_allOnes
    rw [exists_infoTypeRow_iff (infoTypeRows_known j hknown), hmask, ← BitVec.toNat_inj, BitVec.toNat_ofNat]
    split_ifs <;> omega
  · rw [exists_infoTypeRow_iff rfl, and_F0_eq_10_iff]
    split_ifs <;> omega
  · rw [exists_infoTypeRow_iff rfl, and_E0_eq_20_iff]
    split_ifs <;> omega
  · rw [exists_infoTypeRow_iff rfl, and_C0_eq_40_iff]
    split_ifs <;> omega
  · rw [exists_infoTypeRow_iff rfl, and_80_eq_80_iff]
    split_ifs <;> omega

/-! ### Requests read back -/

/-- A well-formed DEC row is read back from the frame it is encoded as (R60, R62). -/
theorem decode_encode_of_inFrameOf {cfg : Configuration} {i : Instr} {t : Byte} {f : InFrame}
    (hwf : i.wellFormed cfg = true) (ht : infoTypeOf i = some t) (hf : inFrameOf i = some f) :
    decode cfg (encode i) = .ok i := by
  have hfits : f.fits = true := (wellFormed_of_inFrameOf cfg hf).symm.trans hwf
  rw [encode_of_infoTypeOf ht hf, decodeRequest, decode_frame cfg 0 t f hfits, selectInfoType_of_infoTypeOf ht hf]

/-- A DECODE of a byte sequence with no infoType is the row DECODE (R130; log 7). -/
theorem decode_of_discriminant_none (cfg : Configuration) (conn : Nat) {frame : Bytes} (h : discriminant frame = none) :
    decode cfg (.txn conn 0b10 (.bytes frame)) = .ok (.decode frame) := by
  rcases decode_op_decode cfg conn frame with ⟨t, f, hsome, -⟩ | ⟨-, hdec⟩
  · rw [h] at hsome
    cases hsome
  · exact hdec

/-- The row of a command that selects this action, or ENCODE where it selects none (R216 to R219; log 7). -/
def actionRow (c : Command) : Option Action → Instr
  | some .off => .encOff c
  | some .on => .encOn c
  | some .dim => .encDim c
  | some .assoc => .encAssoc c
  | none => .encode c

theorem selectCommand_of_commandAction {cfg : Configuration} {c : Command} {a : Option Action}
    (h : commandAction cfg c = a) : selectCommand cfg c = actionRow c a := by
  subst h
  rcases selectCommand_cases cfg c with ⟨h, e⟩ | ⟨h, e⟩ | ⟨h, e⟩ | ⟨h, e⟩ | ⟨h, e⟩ <;> rw [e, h, actionRow]

theorem decode_encode_command {cfg : Configuration} {c : Command} {a : Option Action} (conn : Nat)
    (h : commandAction cfg c = a) : decode cfg (.txn conn 0b11 (.command c)) = .ok (actionRow c a) := by
  rw [decode_op_encode, selectCommand_of_commandAction h]

/-- The word ASSEMBLE writes is read back as its four values (R65, R66, R214). -/
theorem decodeCommandFrame_assemble {pc : Byte} (h : pc.toNat ≤ 16) (ac : Byte) (id : U32) (dv : Byte) :
    decodeCommandFrame (assemble pc ac id dv) = .ok (.encFrame pc ac id dv) := by
  simp only [assemble, decodeCommandFrame]
  rw [if_pos (by decide), if_pos h, id_of_bytes]

/-! ### Requests that are no instruction -/

/-- A transaction that does not decode has an operand its op does not take (R79; log 10). -/
theorem decode_txn_eq_error {cfg : Configuration} {conn : Nat} {op : BitVec 2} {operand : Operand} {e : DecodeError}
    (h : decode cfg (.txn conn op operand) = .error e) : e = .operandMismatch op := by
  simp only [decode] at h
  split at h
  case h_3 => split at h <;> cases h
  case h_5 => cases h; rfl
  all_goals cases h

/-- A transaction decodes when its operand is of the kind its op takes, and then only (R79). -/
theorem decode_txn_isOk_iff (cfg : Configuration) (conn : Nat) (op : BitVec 2) (operand : Operand) :
    (∃ i, decode cfg (.txn conn op operand) = .ok i) ↔
      (op = 0b00 ∧ operand = .none) ∨ (op = 0b01 ∧ ∃ b, operand = .bytes b) ∨
      (op = 0b10 ∧ ∃ b, operand = .bytes b) ∨ (op = 0b11 ∧ ∃ c, operand = .command c) := by
  constructor
  · rintro ⟨i, h⟩
    rcases decode_eq_ok h with ⟨_, hr, -⟩ | ⟨_, batch, hr, -⟩ | ⟨_, _, _, hr, -⟩ | ⟨_, frame, hr, -⟩ | ⟨_, c, hr, -⟩ |
      ⟨_, _, _, _, hr, -⟩ <;> cases hr
    · exact .inl ⟨rfl, rfl⟩
    · exact .inr (.inl ⟨rfl, batch, rfl⟩)
    · exact .inr (.inr (.inl ⟨rfl, _, rfl⟩))
    · exact .inr (.inr (.inl ⟨rfl, frame, rfl⟩))
    · exact .inr (.inr (.inr ⟨rfl, c, rfl⟩))
  · rintro (⟨rfl, rfl⟩ | ⟨rfl, batch, rfl⟩ | ⟨rfl, frame, rfl⟩ | ⟨rfl, c, rfl⟩)
    · exact ⟨_, decode_op_reset cfg conn⟩
    · exact ⟨_, decode_op_push cfg conn batch⟩
    · rcases decode_op_decode cfg conn frame with ⟨_, _, -, h⟩ | ⟨-, h⟩ <;> exact ⟨_, h⟩
    · exact ⟨_, decode_op_encode cfg conn c⟩

end Sys2Proof

namespace Sys2Proof.Machine

/-- A step with a request that is no instruction is refused with the decoder's reason (log 10). -/
theorem step_of_decode_error {s : State} {r : Request} {rest : List Request} {e : DecodeError}
    (hr : s.requests = r :: rest) (hd : decode s.cfg r = .error e) : step s = .refused (.undecodable e) := by
  unfold step
  rw [fetch_cons hr]
  simp only [hd]

end Sys2Proof.Machine

namespace Sys2Proof.Proofs

open Sys2Proof.Machine

/-- Settles O4, by the kinds of instruction: the DEC rows all by their infoType byte and operand bytes, the ENCODE rows by
the action of their command. -/
theorem decodeInvertsEncode : Obligations.DecodeInvertsEncode := by
  intro cfg i hwf
  cases i with
  | reset conn => exact decode_op_reset cfg conn
  | push conn batch => exact decode_op_push cfg conn batch
  | decode frame => exact decode_of_discriminant_none cfg 0 (by simpa [Instr.wellFormed] using hwf)
  | encode c | encOff c | encOn c | encDim c | encAssoc c =>
    exact decode_encode_command 0 (by simpa [Instr.wellFormed] using hwf)
  | encFrame pc ac id dv => exact decodeCommandFrame_assemble (by simpa [Instr.wellFormed] using hwf) ac id dv
  | _ => exact decode_encode_of_inFrameOf hwf rfl rfl

/-- Settles O6: an infoType byte belongs to the one row of its range. -/
theorem infoTypeRowsPartitionTheBytes : Obligations.InfoTypeRowsPartitionTheBytes := by
  intro t f
  exact ⟨infoTypeRowIndex t, infoTypeRowIndex_lt t, infoTypeRowOf_of_infoTypeOf (infoTypeOf_selectInfoType t f),
    fun _ hj => infoTypeRow_fits_iff t hj⟩

/-- Settles O3: a transaction that does not decode is refused with the only reason the decoder has for it. -/
theorem eachOpTakesItsOperand : Obligations.EachOpTakesItsOperand := by
  intro s conn op operand rest hreq
  refine ⟨decode_txn_isOk_iff s.cfg conn op operand, fun hnot => ?_⟩
  cases hdec : decode s.cfg (.txn conn op operand) with
  | ok i => exact absurd hdec (hnot i)
  | error e => rw [step_of_decode_error hreq hdec, decode_txn_eq_error hdec]

/-- Settles O7, by running the decoder on each word. -/
theorem writtenWordsDecode : Obligations.WrittenWordsDecode :=
  ⟨rfl, rfl, rfl, rfl, rfl⟩

end Sys2Proof.Proofs
end

section
/-! PROOFS. The bytes an outcome of DECODE depends on (R132, R135, R157). -/

namespace Sys2Proof.Machine

/-! ### Payloads that agree on the fields of a layout -/

/-- Two payloads have the same bytes in each of these fields, given by offset and width. -/
def agreeOn (spans : List (Nat × Nat)) (p q : Bytes) : Prop :=
  ∀ e ∈ spans, ∀ j < e.2, byteAt p (e.1 + j) = byteAt q (e.1 + j)

theorem rd16_of_agreeOn {spans : List (Nat × Nat)} {p q : Bytes} (h : agreeOn spans p q) (o : Nat)
    (ho : (o, 2) ∈ spans) : rd16 p o = rd16 q o := by
  rw [rd16, rdLE_congr p q 2 o o (h _ ho), rd16]

theorem rd32_of_agreeOn {spans : List (Nat × Nat)} {p q : Bytes} (h : agreeOn spans p q) (o : Nat)
    (ho : (o, 4) ∈ spans) : rd32 p o = rd32 q o := by
  rw [rd32, rdLE_congr p q 4 o o (h _ ho), rd32]

/-- Every field that a type's reading reads is one of its layout, with its width (R71, R157). -/
theorem readingOf_of_agreeOn {cfg : Configuration} {t : Fin 16} {p q : Bytes} (h : agreeOn (spansOf cfg.layout t) p q) :
    readingOf cfg t p = readingOf cfg t q := by
  have h16 := rd16_of_agreeOn h
  have h32 := rd32_of_agreeOn h
  fin_cases t <;>
    simp [readingOf, readT0, readT1, readT2, readT3, readT4, readT5, readT6, readT7, readT8, readT9, readT10, readT11,
      readT12, readT13, readT14, readT15, idA, idB, valSigned, h16, h32, spansOf, spansPlain, spansQualified,
      spansThermo, spansPressure, spansWind, spansUV, spansOwl, spansRain, spansMetering]

/-! ### The outcome of a frame of a known type -/

/-- DECODE of a written frame of a known type answers as the type's row does (R130, R133). -/
theorem decodeFrame_inFrameBytes (cfg : Configuration) (t : Fin 16) {f : InFrame} (h : f.fits = true) :
    decodeFrame cfg (inFrameBytes (BitVec.ofNat 8 t.val) f) = rowOutcome cfg t f := by
  have hlen := length_inFrameBytes (BitVec.ofNat 8 t.val) f
  have hdecl := declaredLen_inFrameBytes (BitVec.ofNat 8 t.val) f h
  have hmin := length_inPayload (BitVec.ofNat 8 t.val) f
  have ht : (byteAt (inPayload (BitVec.ofNat 8 t.val) f) 4).toNat = t.val := by
    show (BitVec.ofNat 8 t.val).toNat = t.val
    rw [BitVec.toNat_ofNat]
    omega
  unfold decodeFrame
  rw [if_neg, if_neg (by omega), payloadOf_inFrameBytes]
  · dsimp only
    rw [if_neg (by omega), dif_pos (by omega)]
    simp only [ht, Fin.eta, rowOutcome]
  · rintro (hshort | hs1 | hs2)
    · omega
    · exact hs1 rfl
    · exact hs2 rfl

theorem rowOutcome_of_minLen_le {cfg : Configuration} {t : Fin 16} {f : InFrame}
    (h : minLenOf cfg t ≤ (inPayload (BitVec.ofNat 8 t.val) f).length) :
    rowOutcome cfg t f = .reading (readingOf cfg t (inPayload (BitVec.ofNat 8 t.val) f)) :=
  if_neg (Nat.not_lt.mpr h)

/-! ### The fields' bytes of a payload -/

/-- From offset 5 on, a payload is the fields' bytes (R62). -/
theorem byteAt_inPayload_of_le (t : Byte) (f : InFrame) {i : Nat} (h : rfPrefixLen ≤ i) :
    byteAt (inPayload t f) i = byteAt f.fields (i - rfPrefixLen) := by
  obtain ⟨n, rfl⟩ := Nat.exists_eq_add_of_le' h
  rw [Nat.add_sub_cancel]
  rfl

/-- The bounds of R29 that a legal configuration keeps: no field lies on the first five bytes of a payload (R70), and an
added protocol code is 1 to 16 (R76). -/
theorem bounds_of_legal {cfg : Configuration} (h : cfg.legal = true) :
    (∀ t, ∀ e ∈ spansOf cfg.layout t, rfPrefixLen ≤ e.1) ∧
      ∀ e ∈ cfg.protoExtra, 1 ≤ e.2.toNat ∧ e.2.toNat ≤ 16 := by
  simp only [Configuration.legal, Bool.and_eq_true, List.all_eq_true, decide_eq_true_eq] at h
  obtain ⟨⟨⟨⟨⟨⟨hlayout, -⟩, hproto⟩, -⟩, -⟩, -⟩, -⟩ := h
  exact ⟨fun t => hlayout t (List.mem_finRange t), hproto⟩

theorem agreeOn_of_fields_eq {cfg : Configuration} (hlegal : cfg.legal = true) (t : Fin 16) (tb : Byte) {f g : InFrame}
    (h : f.fields = g.fields) : agreeOn (spansOf cfg.layout t) (inPayload tb f) (inPayload tb g) := by
  intro e he j _
  obtain ⟨hlayout, -⟩ := bounds_of_legal hlegal
  have hle : rfPrefixLen ≤ e.1 + j := Nat.le_add_right_of_le (hlayout t e he)
  rw [byteAt_inPayload_of_le tb f hle, byteAt_inPayload_of_le tb g hle, h]

/-- Under a legal table the outcome of a row depends on the fields' bytes alone (R132, R157). -/
theorem rowOutcome_of_fields_eq {cfg : Configuration} (hlegal : cfg.legal = true) (t : Fin 16) {f g : InFrame}
    (h : f.fields = g.fields) : rowOutcome cfg t f = rowOutcome cfg t g := by
  have hread := readingOf_of_agreeOn (agreeOn_of_fields_eq hlegal t (BitVec.ofNat 8 t.val) h)
  have hlen : (inPayload (BitVec.ofNat 8 t.val) f).length = (inPayload (BitVec.ofNat 8 t.val) g).length := by
    rw [length_inPayload, length_inPayload, h]
  simp only [rowOutcome, layoutOutcome, hread, hlen]

end Sys2Proof.Machine

namespace Sys2Proof.Proofs

open Sys2Proof.Machine

/-- Settles O45: a reading reads the fields of its layout alone, and under a legal table these all lie behind the first
five bytes of the payload. -/
theorem readingsIgnoreUncoveredBytes : Obligations.ReadingsIgnoreUncoveredBytes := by
  intro cfg t f g
  dsimp only
  intro hf hg
  rw [decodeFrame_inFrameBytes cfg t hf, decodeFrame_inFrameBytes cfg t hg]
  refine ⟨fun hminf hming hagree => ?_, fun hlegal hfields => rowOutcome_of_fields_eq hlegal t hfields⟩
  exact ⟨_, rowOutcome_of_minLen_le hminf, readingOf_of_agreeOn hagree ▸ rowOutcome_of_minLen_le hming⟩

end Sys2Proof.Proofs
end

section
/-! PROOFS. The encoder: the tokens of each action (R77, R203, R204), the answers of the action rows (R216 to R219), and
the bytes of a command frame (R65, R76, R214). -/

namespace Sys2Proof.Machine

/-! ### Tokens -/

/-- The token that selects an action under the generic mapping (R203). -/
def genericToken : Action → String
  | .off => "0"
  | .on => "1"
  | .dim => "2"
  | .assoc => "6"

theorem genericAction_eq_some (tok : String) (a : Action) : genericAction tok = some a ↔ tok = genericToken a := by
  constructor
  · intro h
    unfold genericAction at h
    split_ifs at h with h0 h1 h2 h6 <;> cases h <;> assumption
  · rintro rfl
    cases a <;> rfl

/-- The string of an HA token (R77). -/
def haName : HaToken → String
  | .autoLow => "AutoLow"
  | .ecoLow => "EcoLow"
  | .confortLow => "ConfortLow"
  | .auto => "Auto"
  | .eco => "Eco"
  | .confort => "Confort"
  | .stop => "Stop"
  | .horsGel => "HorsGel"

theorem haToken_eq_some (tok : String) (t : HaToken) : haToken tok = some t ↔ tok = haName t := by
  constructor
  · intro h
    unfold haToken at h
    split_ifs at h <;> cases h <;> assumption
  · rintro rfl
    cases t <;> rfl

/-- The HA tokens in the order of R77. -/
def haTokens : List HaToken := [.autoLow, .ecoLow, .confortLow, .auto, .eco, .confort, .stop, .horsGel]

theorem mem_haTokens (t : HaToken) : t ∈ haTokens := by
  cases t <;> decide

/-- The strings of the HA tokens that select an action (R204). -/
def haNames (a : Action) : List String := (haTokens.filter (fun t => haAction t = a)).map haName

theorem map_haAction_eq_some (tok : String) (a : Action) :
    (haToken tok).map haAction = some a ↔ tok ∈ haNames a := by
  simp only [Option.map_eq_some_iff, haToken_eq_some, haNames, List.mem_map, List.mem_filter, mem_haTokens, true_and,
    decide_eq_true_eq]
  constructor
  · rintro ⟨t, rfl, ht⟩
    exact ⟨t, ht, rfl⟩
  · rintro ⟨t, ht, rfl⟩
    exact ⟨t, rfl, ht⟩

theorem actionOf_generic {cfg : Configuration} {pc : Byte} (h : cfg.haProto ≠ some pc) (tok : String) (a : Action) :
    actionOf cfg pc tok = some a ↔ tok = genericToken a := by
  rw [actionOf, if_neg h, genericAction_eq_some]

theorem actionOf_ha {cfg : Configuration} {pc : Byte} (h : cfg.haProto = some pc) (tok : String) (a : Action) :
    actionOf cfg pc tok = some a ↔ tok ∈ haNames a := by
  rw [actionOf, if_pos h, map_haAction_eq_some]

/-- The commands that select an action (R201, R203, R204). -/
theorem commandAction_eq_some (cfg : Configuration) (c : Command) (a : Action) :
    commandAction cfg c = some a ↔
      cfg.haProto ≠ some (protoCode cfg c.proto) ∧ c.token = genericToken a ∨
        cfg.haProto = some (protoCode cfg c.proto) ∧ c.token ∈ haNames a := by
  unfold commandAction
  by_cases h : cfg.haProto = some (protoCode cfg c.proto)
  · simp [actionOf_ha h, h]
  · simp [actionOf_generic h, h]

/-! ### The answers of ENCODE -/

/-- With its action resolved, ENCODE has no unresolved value just when its protocol and its id are resolved (R213). -/
theorem unresolved_eq_nil_iff (pc code : Byte) (id : Option U32) :
    unresolved pc (some code) id = [] ↔ pc ≠ 0 ∧ id ≠ none := by
  by_cases hpc : pc = 0 <;> cases id <;> simp [unresolved, hpc]

/-- ENCODE with its action resolved answers as an action row must (R216 to R219): the cases are those of STRICT. -/
theorem actionRowAnswers_of_encodeWith {i : Instr} {s : State} {c : Command} {code : Byte}
    (h : exec i s = .next (s.answer (encodeWith s.cfg c (some code)))) : actionRowAnswers i s c code := by
  have haction : .encUnresAction ∉ unresolved (protoCode s.cfg c.proto) (some code) (deviceId c.idCode) := by
    simp [mem_unresolved]
  have hnil := unresolved_eq_nil_iff (protoCode s.cfg c.proto) code (deviceId c.idCode)
  refine ⟨_, h, ?_⟩
  rw [encodeWith]
  rcases encodeOutputs_cases s.cfg.strict (protoCode s.cfg c.proto) (some code) (deviceId c.idCode)
    (dimByte s.cfg (protoCode s.cfg c.proto) c.token c.dimIn) with ⟨hstrict, hne, e⟩ | ⟨hok, e⟩
  · rw [e]
    refine ⟨by simpa using haction, fun hres => ?_, fun _ => ⟨by simp, by simp⟩⟩
    rw [hstrict, ← hnil] at hres
    simp [hne] at hres
  · rw [e]
    refine ⟨by simpa using haction, fun _ => by simp, fun ⟨hstrict, hunres⟩ => ?_⟩
    rw [hstrict, hnil] at hok
    tauto

/-- A command that selects an action decodes to that action's row, which answers with the action's code. -/
theorem actionRow_answers {s : State} {c : Command} {a : Action} (conn : Nat) (h : commandAction s.cfg c = some a) :
    decode s.cfg (.txn conn 0b11 (.command c)) = .ok (actionRow c (some a)) ∧
      actionRowAnswers (actionRow c (some a)) s c (actionCode s.cfg a) := by
  refine ⟨decode_encode_command conn h, actionRowAnswers_of_encodeWith ?_⟩
  cases a <;> rfl

/-- A frame among ENCODE's outputs is the one assembled of its values (R214). -/
theorem eq_assemble_of_mem_encodeOutputs {strict : Bool} {pc : Byte} {ac : Option Byte} {id : Option U32} {dv : Byte}
    {f : Bytes} (h : .frame f ∈ encodeOutputs strict pc ac id dv) : f = assemble pc (ac.getD 0) (id.getD 0) dv := by
  rcases encodeOutputs_cases strict pc ac id dv with ⟨-, -, e⟩ | ⟨-, e⟩
  · simp [e] at h
  · simpa [e] using h

/-! ### The bytes of a command frame -/

/-- The id of a command frame stands in bytes 9 to 12, low byte first (R65). -/
theorem rdLE_assemble_id (pc ac : Byte) (id : U32) (dv : Byte) : rdLE (assemble pc ac id dv) 9 4 = id.toNat := by
  have hid := id.isLt
  simp only [rdLE, byteAt, assemble, List.getD_cons_succ, List.getD_cons_zero, BitVec.extractLsb'_toNat,
    Nat.shiftRight_eq_div_pow]
  omega

/-- Byte 7 of a frame that ENCODE emits is the code of its protocol (R65, R202). -/
theorem byteAt_protocol_of_encode {s t : State} {c : Command} {f : Bytes} (h : exec (.encode c) s = .next t)
    (hf : .frame f ∈ t.out) : byteAt f 7 = protoCode s.cfg c.proto := by
  rw [exec_encode] at h
  cases h
  rw [eq_assemble_of_mem_encodeOutputs hf]
  rfl

/-- Under a legal table a protocol name's code is 1 to 16 (R76, R205). -/
theorem protoLookup_range {cfg : Configuration} (hlegal : cfg.legal = true) {n : String} {code : Byte}
    (h : protoLookup cfg n = some code) : 1 ≤ code.toNat ∧ code.toNat ≤ 16 := by
  have hfixed : ∀ e ∈ fixedProtoCodes, 1 ≤ e.2.toNat ∧ e.2.toNat ≤ 16 := by decide
  obtain ⟨-, hextra⟩ := bounds_of_legal hlegal
  obtain ⟨before, after, hsplit, -⟩ := List.lookup_eq_some_iff.mp h
  have hmem : (n, code) ∈ fixedProtoCodes ++ cfg.protoExtra := by simp [hsplit]
  rcases List.mem_append.mp hmem with hmem | hmem
  · exact hfixed _ hmem
  · exact hextra _ hmem

theorem protoCode_of_lookup {cfg : Configuration} {n : String} {code : Byte} (h : protoLookup cfg n = some code) :
    protoCode cfg (some n) = code := by
  simp [protoCode, h]

theorem protoCode_of_unresolved {cfg : Configuration} {proto : Option String}
    (h : ∀ n, proto = some n → protoLookup cfg n = none) : protoCode cfg proto = 0 := by
  cases proto with
  | none => rfl
  | some n => simp [protoCode, h n rfl]

end Sys2Proof.Machine

namespace Sys2Proof.Proofs

open Sys2Proof.Machine

/-- Settles O48, by the inverse of each of the two mappings. -/
theorem tokensSelectActions : Obligations.TokensSelectActions := by
  intro cfg pc tok
  refine ⟨fun hne => ?_, fun heq => ?_⟩
  · exact ⟨actionOf_generic hne tok .off, actionOf_generic hne tok .on, actionOf_generic hne tok .dim,
      actionOf_generic hne tok .assoc⟩
  · exact ⟨actionOf_ha heq tok .off, actionOf_ha heq tok .on, fun h => List.not_mem_nil ((actionOf_ha heq tok .dim).mp h),
      fun h => List.not_mem_nil ((actionOf_ha heq tok .assoc).mp h)⟩

/-- Settles O51: the bytes of ASSEMBLE, the id's four read as one value. -/
theorem commandFrameHasItsBytes : Obligations.CommandFrameHasItsBytes := by
  intro s pc ac id dv
  exact ⟨assemble pc ac id dv, exec_encFrame pc ac id dv s, rfl, rfl, rfl, rfl, rdLE_assemble_id pc ac id dv, rfl, rfl⟩

/-- Settles O55: the tokens select the action, the action the row, and the row answers as ENCODE with its action
resolved. -/
theorem actionRowsAnswer : Obligations.ActionRowsAnswer := by
  refine ⟨⟨rfl, rfl, rfl⟩, fun s conn c => ?_⟩
  have hrow := fun a => actionRow_answers (s := s) (c := c) (a := a) conn
  exact ⟨fun h => hrow .off ((commandAction_eq_some s.cfg c .off).mpr h),
    fun h => hrow .on ((commandAction_eq_some s.cfg c .on).mpr h),
    fun h => hrow .dim ((commandAction_eq_some s.cfg c .dim).mpr (.inl h)),
    fun h => hrow .assoc ((commandAction_eq_some s.cfg c .assoc).mpr (.inl h))⟩

/-- Settles O57: byte 7 is the protocol's code, which a legal table bounds. -/
theorem protocolByteStaysInRange : Obligations.ProtocolByteStaysInRange := by
  intro s t c f hlegal h hf
  rw [byteAt_protocol_of_encode h hf]
  refine ⟨fun n code hn hcode => ?_, protoCode_of_unresolved⟩
  rw [hn]
  exact ⟨protoCode_of_lookup hcode, protoLookup_range hlegal hcode⟩

end Sys2Proof.Proofs
end

section
/-! PROOFS. The scan as the framing loop (R102 to R109): what it does with each kind of buffer, the outputs it can give,
and a PUSH that appends and scans. -/

namespace Sys2Proof.Machine

/-! ### One equation of the scan for each kind of buffer -/

/-- A length field is its two bytes, low byte first (R61). -/
theorem rdLE_two (b : Bytes) (o : Nat) : rdLE b o 2 = (byteAt b o).toNat + 256 * (byteAt b (o + 1)).toNat := rfl

/-- With no marker a long buffer is dropped and counted (R105). -/
theorem scan_of_long_garbage {b : Bytes} (h : findMarker b = none) (hlong : 64 < b.length) :
    scan b = ([.event (.desync b.length)], []) := by
  refine scan_of_stop ?_
  unfold scanPass
  rw [h]
  exact if_pos hlong

/-- With no marker a short buffer is kept (R105). -/
theorem scan_of_short_garbage {b : Bytes} (h : findMarker b = none) (hshort : b.length ≤ 64) : scan b = ([], b) :=
  scan_of_stable ((framingOf_isSome_of_none h).mpr hshort)

/-- With the frame at the first marker incomplete the buffer is kept (R106, R107). -/
theorem scan_of_incomplete {b : Bytes} {i : Nat} (h : findMarker b = some i)
    (hlen : b.length < i + 5 + rdLE b (i + 3) 2) : scan b = ([], b) :=
  scan_of_stable ((framingOf_isSome_of_some h).mpr hlen)

/-- With the header at the first marker incomplete the buffer is kept, garbage included (R106). -/
theorem scan_of_incomplete_header {b : Bytes} {i : Nat} (h : findMarker b = some i) (hlen : b.length < i + 5) :
    scan b = ([], b) :=
  scan_of_incomplete h (Nat.lt_add_right _ hlen)

theorem slice_frame (b : Bytes) (i len : Nat) : slice b i (i + 5 + len) = (b.drop i).take (5 + len) := by
  rw [slice, Nat.add_assoc, Nat.add_sub_cancel_left]

/-- With the frame at the first marker complete it is cut out, and the scan goes on behind it (R108, R109). -/
theorem scan_of_complete {b : Bytes} {i len : Nat} (h : findMarker b = some i) (hlen : rdLE b (i + 3) 2 = len)
    (hfull : i + 5 + len ≤ b.length) :
    scan b = (.frame ((b.drop i).take (5 + len)) :: (scan (b.drop (i + 5 + len))).1,
      (scan (b.drop (i + 5 + len))).2) := by
  have hheader : ¬ b.length < i + hdr := Nat.not_lt.mpr ((Nat.le_add_right _ _).trans hfull)
  have hbody : ¬ b.length < i + hdr + len := Nat.not_lt.mpr hfull
  refine scan_of_frame ?_
  rw [← slice_frame, ← slice_to_end]
  unfold scanPass
  simp only [h, hlen, if_neg hheader, if_neg hbody]
  rfl

/-! ### The outputs of a scan -/

/-- Frames only, or frames and behind them the DESYNC of more than 64 bytes that emptied the buffer (R114, R250). -/
def framesThenDesync (outs : List Output) (left : Bytes) : Prop :=
  ∃ fs : List Bytes, outs = fs.map .frame ∨
    ∃ n, 64 < n ∧ outs = fs.map .frame ++ [.event (.desync n)] ∧ left = []

theorem framesThenDesync_cons {f left : Bytes} {outs : List Output} (h : framesThenDesync outs left) :
    framesThenDesync (.frame f :: outs) left := by
  obtain ⟨fs, rfl | ⟨n, hn, rfl, hleft⟩⟩ := h
  · exact ⟨f :: fs, .inl rfl⟩
  · exact ⟨f :: fs, .inr ⟨n, hn, rfl, hleft⟩⟩

theorem scan_framesThenDesync (b : Bytes) : framesThenDesync (scan b).1 (scan b).2 := by
  induction b using scan_induction with
  | stop b r hp =>
    obtain ⟨outs, left⟩ := r
    rw [scan_of_stop hp]
    rcases scanPass_inl hp with ⟨-, hlong, rfl, rfl⟩ | ⟨rfl, -, -⟩
    · exact ⟨[], .inr ⟨b.length, hlong, rfl, rfl⟩⟩
    · exact ⟨[], .inl rfl⟩
  | frame b f rest hp ih =>
    rw [scan_of_frame hp]
    exact framesThenDesync_cons ih

/-! ### PUSH as a step -/

/-- Everything a PUSH that completes does to its connection and answers (R100). -/
theorem exec_push_cases {s t : State} {k : Nat} {batch : Bytes} (h : exec (.push k batch) s = .next t) :
    ((s.instanceAt k).fault = true ∧ t.instanceAt k = s.instanceAt k ∧ t.out = [.event (.overflow 0)]) ∨
    ((s.instanceAt k).fault = false ∧
      exceedsCap s.cfg ((s.instanceAt k).buffer.length + batch.length) = true ∧
      t.instanceAt k = { s.instanceAt k with fault := true } ∧
      t.out = [.event (.overflow ((s.instanceAt k).buffer.length + batch.length))]) ∨
    ((s.instanceAt k).fault = false ∧
      exceedsCap s.cfg ((s.instanceAt k).buffer.length + batch.length) = false ∧
      t.instanceAt k = { s.instanceAt k with buffer := (scan ((s.instanceAt k).buffer ++ batch)).2 } ∧
      t.out = (scan ((s.instanceAt k).buffer ++ batch)).1) := by
  obtain ⟨-, rfl⟩ := execPush_eq_next.mp (exec_push k batch s ▸ h)
  rw [answer_instanceAt, setInstance_instanceAt_same, answer_out]
  rcases pushInto_cases s.cfg (s.instanceAt k) batch with ⟨hf, e⟩ | ⟨hf, hcap, e⟩ | ⟨hf, hcap, e⟩ <;> rw [e]
  · exact .inl ⟨hf, rfl, rfl⟩
  · exact .inr (.inl ⟨hf, hcap, rfl, rfl⟩)
  · exact .inr (.inr ⟨hf, hcap, rfl, rfl⟩)

theorem exec_push_completes {s : State} {k : Nat} {batch : Bytes} (h : exceedsBatch s.cfg batch.length = false) :
    ∃ t, exec (.push k batch) s = .next t :=
  ⟨_, execPush_eq_next.mpr ⟨h, rfl⟩⟩

/-- A PUSH that runs completes, and answers and leaves what the scan of the old buffer and the batch gives (R100). -/
theorem exec_push_scans {s : State} {k : Nat} {batch : Bytes} (hruns : pushRuns s k batch) :
    ∃ t, exec (.push k batch) s = .next t ∧ ∀ {outs left}, scan ((s.instanceAt k).buffer ++ batch) = (outs, left) →
      t.out = outs ∧ (t.instanceAt k).buffer = left := by
  obtain ⟨t, ht⟩ := exec_push_completes (k := k) hruns.1
  refine ⟨t, ht, fun {outs left} hscan => ?_⟩
  have hends := exec_push_of_pushRuns hruns ht
  rwa [hscan] at hends

end Sys2Proof.Machine

namespace Sys2Proof.Proofs

open Sys2Proof.Machine

/-- Settles O18, by the equation of the scan for each kind of buffer. -/
theorem scanIsTheFramingLoop : Obligations.ScanIsTheFramingLoop := by
  intro b
  cases h : findMarker b with
  | none =>
    by_cases hlong : 64 < b.length
    · simp [scan_of_long_garbage h hlong, hlong]
    · simp [scan_of_short_garbage h (Nat.le_of_not_lt hlong), hlong]
  | some i =>
    by_cases hbody : b.length < i + 5 + rdLE b (i + 3) 2
    · simp [scan_of_incomplete h hbody, hbody]
    · have hheader : ¬ b.length < i + 5 := by omega
      conv_lhs => rw [scan_of_complete h rfl (Nat.le_of_not_lt hbody)]
      simp [hheader, hbody, slice_frame, slice_to_end]

/-- Settles O17, from everything a PUSH that completes can do. -/
theorem pushAppendsAndScans : Obligations.PushAppendsAndScans := by
  intro s k batch
  refine ⟨fun hbatch => execPush_eq_refused.mpr ⟨hbatch, rfl⟩, fun hbatch => ?_⟩
  obtain ⟨t, ht⟩ := exec_push_completes (k := k) hbatch
  obtain ⟨hcfg, hrequests, hothers⟩ := onlyTheNamedInstanceChanges _ s t ht
  have hother : ∀ j, j ≠ k → t.instanceAt j = s.instanceAt j := fun j hj =>
    (hothers j (by simp) (by simp [Ne.symm hj])).1
  refine ⟨t, ht, hcfg, hrequests, hother, ?_⟩
  rcases exec_push_cases ht with ⟨hf, hk, hout⟩ | ⟨hf, hcap, hk, hout⟩ | ⟨hf, hcap, hk, hout⟩
  · simp [hf, hk, hout]
  · simp [hf, hcap, hk, hout]
  · simp [hf, hcap, hk, hout]

/-- Settles O20, of the scan and with it of a PUSH that runs. -/
theorem desyncAboveSixtyFourBytes : Obligations.DesyncAboveSixtyFourBytes := by
  refine ⟨?_, ?_⟩
  · intro b hnone
    have h := (findMarker_eq_none b).mpr hnone
    exact ⟨scan_of_long_garbage h, scan_of_short_garbage h⟩
  · intro s k batch b hruns hnone
    have h := (findMarker_eq_none b).mpr hnone
    obtain ⟨t, ht, hends⟩ := exec_push_scans hruns
    exact ⟨t, ht, fun hlong => hends (scan_of_long_garbage h hlong),
      fun hshort => hends (scan_of_short_garbage h hshort)⟩

/-- Settles O21: an incomplete header is an incomplete frame, whatever its length bytes would be. -/
theorem headerWaitKeepsTheBuffer : Obligations.HeaderWaitKeepsTheBuffer := by
  refine ⟨?_, ?_⟩
  · intro b i hi hlen
    exact scan_of_incomplete_header ((findMarker_eq_some b i).mpr hi) hlen
  · intro s k batch i b hruns hi hlen
    obtain ⟨t, ht, hends⟩ := exec_push_scans hruns
    exact ⟨t, ht, hends (scan_of_incomplete_header ((findMarker_eq_some b i).mpr hi) hlen)⟩

/-- Settles O22: the length field decides between an incomplete and a complete frame. -/
theorem completeFrameIsCutOut : Obligations.CompleteFrameIsCutOut := by
  refine ⟨?_, ?_⟩
  · intro b i len hi _
    have h := (findMarker_eq_some b i).mpr hi
    have hlen : rdLE b (i + 3) 2 = len := rdLE_two b (i + 3)
    exact ⟨fun hwait => scan_of_incomplete h (hlen ▸ hwait), scan_of_complete h hlen⟩
  · intro s k batch i b len hruns hi _
    have h := (findMarker_eq_some b i).mpr hi
    have hlen : rdLE b (i + 3) 2 = len := rdLE_two b (i + 3)
    obtain ⟨t, ht, hends⟩ := exec_push_scans hruns
    exact ⟨t, ht, fun hwait => hends (scan_of_incomplete h (hlen ▸ hwait)),
      fun hfull => hends (scan_of_complete h hlen hfull)⟩

/-- Settles O23: a scan leaves a stable buffer, an OVERFLOW keeps the buffer, and every instruction keeps a state sound. -/
theorem pushLeavesAStableBuffer : Obligations.PushLeavesAStableBuffer := by
  intro s t k batch h
  refine ⟨fun hclear => ?_, fun hset => ?_, fun hs => ?_⟩
  · rcases exec_push_cases h with ⟨hf, hk, -⟩ | ⟨-, -, hk, -⟩ | ⟨-, -, hk, -⟩
    · simp [hk, hf] at hclear
    · simp [hk] at hclear
    · rw [hk]; exact framingOf_scan _
  · rcases exec_push_cases h with ⟨-, hk, -⟩ | ⟨-, -, hk, -⟩ | ⟨hf, -, hk, -⟩
    · rw [hk]
    · rw [hk]
    · simp [hk, hf] at hset
  · obtain ⟨hstable, -, -⟩ := (reassembler_sound_iff _ _).mp (instanceAt_sound (exec_sound hs h) k)
    exact hstable

/-- Settles O24: an OVERFLOW is alone, and a scan gives frames and then at most its DESYNC, by induction along its
passes. -/
theorem desyncComesLastAndOnce : Obligations.DesyncComesLastAndOnce := by
  intro s t k batch h
  rcases exec_push_cases h with ⟨-, -, hout⟩ | ⟨-, -, -, hout⟩ | ⟨-, -, hk, hout⟩
  · exact .inl ⟨0, hout⟩
  · exact .inl ⟨_, hout⟩
  · rw [hk, hout]
    exact .inr (scan_framesThenDesync _)

/-- Settles O26: the receive path maps each item of the PUSH's answer in its place. -/
theorem receivePathDecodesEachFrame : Obligations.ReceivePathDecodesEachFrame := by
  intro s t k batch h
  have hreceive : receive k batch s = .next (t.answer (t.out.map (rxItem t.cfg))) := by
    rw [exec_push] at h
    simp only [receive, h]
  refine ⟨_, hreceive, rfl, rfl, List.length_map _, fun n => ⟨fun e he => ?_, fun f hf => ?_⟩⟩
  · simp [he, rxItem]
  · exact ⟨decodeFrame t.cfg f, by simp [hf, rxItem], exec_decode f t⟩

/-- Settles O30, by running both streams: the lone 5A in the second makes 65 bytes with no marker. -/
theorem batchBoundariesMatter : Obligations.BatchBoundariesMatter :=
  ⟨⟨_, rfl⟩, _, rfl⟩

end Sys2Proof.Proofs
end

section
/-! PROOFS. Streams of well-formed frames: however they are split into batches, each frame comes out and nothing else
(R112); among them the frames ENCODE emits (R220). -/

namespace Sys2Proof.Machine

/-! ### The scan of well-formed frames -/

/-- A well-formed frame begins with the marker, whatever stands behind it. -/
theorem findMarker_frame_append {f : Bytes} (hf : frameOk f = true) (q : Bytes) : findMarker (f ++ q) = some 0 := by
  obtain ⟨hheader, h1, h2, -⟩ := (frameOk_iff f).mp hf
  have hfirst : firstMarkerAt f 0 := ⟨⟨by omega, h1, h2⟩, by simp⟩
  exact findMarker_append q ((findMarker_eq_some f 0).mpr hfirst)

/-- A scan takes a well-formed frame from the front of the buffer (R108). -/
theorem scan_frame_append {f : Bytes} (hf : frameOk f = true) (q : Bytes) :
    scan (f ++ q) = (.frame f :: (scan q).1, (scan q).2) := by
  obtain ⟨hheader, -, -, hlen⟩ := (frameOk_iff f).mp hf
  have hdeclared : rdLE (f ++ q) 3 2 = declaredLen f := rdLE_append_left hheader
  have hscan := scan_of_complete (findMarker_frame_append hf q) hdeclared (by rw [List.length_append]; omega)
  rwa [Nat.zero_add, ← hlen, List.drop_zero, List.take_left, List.drop_left] at hscan

theorem scan_flatten {frames : List Bytes} (hframes : ∀ f ∈ frames, frameOk f = true) :
    scan frames.flatten = (frames.map .frame, []) := by
  induction frames with
  | nil => rfl
  | cons f fs ih =>
    obtain ⟨hf, hfs⟩ := List.forall_mem_cons.mp hframes
    rw [List.flatten_cons, scan_frame_append hf, ih hfs, List.map_cons]

/-- The front of a well-formed frame is kept until the rest of the frame is there (R105 to R107). -/
theorem scan_of_partial_frame {p q : Bytes} (hf : frameOk (p ++ q) = true) (hq : q ≠ []) : scan p = ([], p) := by
  obtain ⟨hheader, h1, h2, hlen⟩ := (frameOk_iff _).mp hf
  have hpos := List.length_pos_iff.mpr hq
  rw [List.length_append] at hlen
  by_cases hmarker : 2 ≤ p.length
  · rw [byteAt_append_left (by omega)] at h1 h2
    have hfirst : firstMarkerAt p 0 := ⟨⟨hmarker, h1, h2⟩, by simp⟩
    refine scan_of_incomplete ((findMarker_eq_some p 0).mpr hfirst) ?_
    by_cases hp : p.length < 5
    · omega
    · have hdeclared : declaredLen (p ++ q) = rdLE p (0 + 3) 2 := rdLE_append_left (by omega)
      omega
  · have hnone : findMarker p = none := (findMarker_eq_none p).mpr fun i hi => by
      obtain ⟨hle, -, -⟩ := hi
      omega
    exact scan_of_short_garbage hnone (by omega)

/-- The scan of the front of a clean stream gives the frames that are complete there, and leaves what stands behind
them. -/
theorem scan_of_clean_front {frames : List Bytes} (hframes : ∀ f ∈ frames, frameOk f = true) :
    ∀ {p more : Bytes}, p ++ more = frames.flatten →
      ∃ done rest left, frames = done ++ rest ∧ scan p = (done.map .frame, left) ∧ left ++ more = rest.flatten := by
  induction frames with
  | nil =>
    intro p more h
    obtain ⟨rfl, rfl⟩ := List.append_eq_nil_iff.mp h
    exact ⟨[], [], [], rfl, rfl, rfl⟩
  | cons f fs ih =>
    intro p more h
    obtain ⟨hf, hfs⟩ := List.forall_mem_cons.mp hframes
    by_cases hp : f <+: p
    · obtain ⟨q, rfl⟩ := hp
      rw [List.flatten_cons, List.append_assoc, List.append_cancel_left_eq] at h
      obtain ⟨done, rest, left, rfl, hscan, hleft⟩ := ih hfs h
      exact ⟨f :: done, rest, left, rfl, by rw [scan_frame_append hf, hscan, List.map_cons], hleft⟩
    · refine ⟨[], f :: fs, p, rfl, ?_, h⟩
      rcases List.append_eq_append_iff.mp h with ⟨q, rfl, -⟩ | ⟨q, rfl, -⟩
      · exact scan_of_partial_frame hf (fun hq => hp (by rw [hq, List.append_nil]))
      · exact absurd ⟨q, rfl⟩ hp

/-! ### The PUSHes of a clean stream -/

/-- A PUSH that runs leaves FAULT clear. -/
theorem fault_of_pushRuns {s t : State} {k : Nat} {batch : Bytes} (hruns : pushRuns s k batch)
    (h : exec (.push k batch) s = .next t) : (t.instanceAt k).fault = false := by
  obtain ⟨-, hf, hcap⟩ := hruns
  rcases exec_push_cases h with ⟨hf', -⟩ | ⟨-, hover, -⟩ | ⟨-, -, hk, -⟩
  · simp [hf] at hf'
  · simp [hcap] at hover
  · rw [hk]; exact hf

theorem eq_fresh {x : Reassembler} (hbuffer : x.buffer = []) (hf : x.fault = false) : x = Reassembler.fresh := by
  obtain ⟨buffer, fault⟩ := x
  cases hbuffer
  cases hf
  rfl

/-- From a stable buffer that the batches continue to a clean stream, the PUSHes answer the stream's frames and end
fresh. Between two PUSHes the buffer and the batches to come are together the frames not yet put out. -/
theorem pushes_clean {k : Nat} {batches : List Bytes} :
    ∀ {s : State} {frames : List Bytes}, s.cfg.bufCap = none →
      (∀ b ∈ batches, exceedsBatch s.cfg b.length = false) → (∀ f ∈ frames, frameOk f = true) →
      (s.instanceAt k).fault = false → (framingOf (s.instanceAt k).buffer).isSome = true →
      (s.instanceAt k).buffer ++ batches.flatten = frames.flatten →
        ∃ t, State.pushes k s batches = some (t, frames.map .frame) ∧ t.instanceAt k = Reassembler.fresh := by
  induction batches with
  | nil =>
    intro s frames _ _ hframes hf hstable hstream
    have hbuffer : (s.instanceAt k).buffer = frames.flatten := by simpa using hstream
    have hscan := scan_of_stable hstable
    rw [hbuffer, scan_flatten hframes] at hscan
    obtain ⟨hnone, hempty⟩ := Prod.mk.inj hscan
    rw [hnone]
    exact ⟨s, rfl, eq_fresh (hbuffer.trans hempty.symm) hf⟩
  | cons b bs ih =>
    intro s frames hcap hbatches hframes hf hstable hstream
    obtain ⟨hb, hbs⟩ := List.forall_mem_cons.mp hbatches
    have hruns : pushRuns s k b := ⟨hb, hf, (exceedsCap_eq_false_iff _ _).mpr (by simp [hcap])⟩
    obtain ⟨u, hpush, hends⟩ := exec_push_scans hruns
    have hcfg : u.cfg = s.cfg := exec_cfg hpush
    rw [List.flatten_cons, ← List.append_assoc] at hstream
    obtain ⟨done, rest, left, rfl, hscan, hrest⟩ := scan_of_clean_front hframes hstream
    obtain ⟨hout, hbuffer⟩ := hends hscan
    have hleft := framingOf_scan ((s.instanceAt k).buffer ++ b)
    rw [hscan] at hleft
    obtain ⟨t, hpushes, hfresh⟩ := ih (s := u) (frames := rest) (by rw [hcfg, hcap]) (by rwa [hcfg])
      (fun f hmem => hframes f (List.mem_append_right done hmem)) (fault_of_pushRuns hruns hpush)
      (by rwa [hbuffer]) (by rwa [hbuffer])
    refine ⟨t, ?_, hfresh⟩
    rw [pushes_cons hpush hpushes, hout, List.map_append]

/-- A well-formed frame pushed alone into a fresh reassembler comes out and leaves it fresh (R102). -/
theorem push_frame_alone {s : State} {k : Nat} {f : Bytes} (hf : frameOk f = true)
    (hfresh : s.instanceAt k = Reassembler.fresh) (hbatch : exceedsBatch s.cfg f.length = false)
    (hcap : exceedsCap s.cfg f.length = false) :
    ∃ t, exec (.push k f) s = .next t ∧ t.out = [.frame f] ∧ t.instanceAt k = Reassembler.fresh := by
  have hruns : pushRuns s k f := by
    refine ⟨hbatch, ?_, ?_⟩ <;> simp [hfresh, hcap]
  obtain ⟨t, ht, hends⟩ := exec_push_scans hruns
  have hscan := scan_flatten (List.forall_mem_singleton.mpr hf)
  obtain ⟨hout, hbuffer⟩ := hends (by simpa [hfresh] using hscan)
  exact ⟨t, ht, hout, eq_fresh hbuffer (fault_of_pushRuns hruns ht)⟩

/-! ### The frames of ENCODE -/

theorem frameOk_assemble (pc ac : Byte) (id : U32) (dv : Byte) : frameOk (assemble pc ac id dv) = true := rfl

theorem declaredLen_assemble (pc ac : Byte) (id : U32) (dv : Byte) : declaredLen (assemble pc ac id dv) = outLen := rfl

theorem exists_assemble_of_encode {s t : State} {c : Command} {f : Bytes} (h : exec (.encode c) s = .next t)
    (hf : .frame f ∈ t.out) : ∃ pc ac id dv, f = assemble pc ac id dv := by
  rw [exec_encode] at h
  cases h
  exact ⟨_, _, _, _, eq_assemble_of_mem_encodeOutputs hf⟩

/-- DECODE of a well-formed frame of ten bytes or more answers by its infoType byte: UNKNOWN_TYPE above 15, else a
reading or SHORT (R130, R134, R135). -/
theorem decodeFrame_of_frameOk (cfg : Configuration) {f : Bytes} (hf : frameOk f = true)
    (hholds : rfPrefixLen ≤ declaredLen f) :
    (15 < (byteAt f 9).toNat → decodeFrame cfg f = .event (.unknownType (byteAt f 9))) ∧
      ((byteAt f 9).toNat ≤ 15 →
        decodeFrame cfg f = .event (.malformed .short) ∨ ∃ r, decodeFrame cfg f = .reading r) := by
  obtain ⟨hheader, h1, h2, hlen⟩ := (frameOk_iff f).mp hf
  have hgood : ¬ (f.length < hdr ∨ byteAt f 0 ≠ sync1 ∨ byteAt f 1 ≠ sync2) := by
    simp only [hdr, h1, h2]; simp [hheader]
  have htype : byteAt (payloadOf f) 4 = byteAt f 9 := byteAt_drop f 5 4
  have hlength : ¬ f.length ≠ hdr + declaredLen f := not_not_intro hlen
  unfold decodeFrame
  rw [if_neg hgood, if_neg hlength]
  simp only [if_neg (Nat.not_lt.mpr hholds), htype]
  refine ⟨fun hunknown => dif_neg (by omega), fun hknown => ?_⟩
  rw [dif_pos (by omega)]
  rcases layoutOutcome_cases _ (payloadOf f) _ with ⟨-, e⟩ | ⟨-, e⟩
  · exact .inl e
  · exact .inr ⟨_, e⟩

end Sys2Proof.Machine

namespace Sys2Proof.Proofs

open Sys2Proof.Machine

/-- Settles O29: a fresh reassembler holds the stable, empty front of the stream. -/
theorem cleanStreamsIgnoreChunking : Obligations.CleanStreamsIgnoreChunking := by
  intro s k frames batches hcap hbatches hfresh hframes hstream
  refine pushes_clean hcap hbatches hframes ?_ ?_ ?_ <;> rw [hfresh]
  · rfl
  · rfl
  · exact hstream

/-- Settles O56: the frame ENCODE emits is the well-formed one of ASSEMBLE, so a scan gives it back and DECODE goes by its
byte 9. -/
theorem commandFramesLoopBack : Obligations.CommandFramesLoopBack := by
  intro s t u c f k h hmem hfresh hbatch hcap
  obtain ⟨pc, ac, id, dv, rfl⟩ := exists_assemble_of_encode h hmem
  have hf := frameOk_assemble pc ac id dv
  have hholds : rfPrefixLen ≤ declaredLen (assemble pc ac id dv) := by rw [declaredLen_assemble]; decide
  obtain ⟨hunknown, hknown⟩ := decodeFrame_of_frameOk u.cfg hf hholds
  refine ⟨⟨rfl, rfl, rfl, declaredLen_assemble pc ac id dv⟩, push_frame_alone hf hfresh hbatch hcap,
    fun hhigh => ?_, fun hlow => ⟨_, exec_decode _ u, hknown hlow⟩⟩
  rw [exec_decode, hunknown hhigh]
  rfl

end Sys2Proof.Proofs
end

section
/-! PROOFS. The decoder's fields as numbers (R41, R45, R68, R69, R138, R139), and what each row of a known infoType reads
(R141 to R156). -/

namespace Sys2Proof.Machine

/-! ### Field reads as numbers -/

theorem toNat_rd16 (p : Bytes) (o : Nat) : (rd16 p o).toNat = rdLE p o 2 := by
  rw [rd16, BitVec.toNat_ofNat]
  exact Nat.mod_eq_of_lt (rdLE_lt p 2 o)

theorem toNat_rd32 (p : Bytes) (o : Nat) : (rd32 p o).toNat = rdLE p o 4 := by
  rw [rd32, BitVec.toNat_ofNat]
  exact Nat.mod_eq_of_lt (rdLE_lt p 4 o)

/-- A Scheme B id is its two words side by side (R69). -/
theorem idB_eq_append (p : Bytes) (phy channel : Nat) : idB p phy channel = rd16 p phy ++ rd16 p channel := by
  rw [BitVec.append_def, BitVec.shiftLeftZeroExtend_eq]
  rfl

theorem toNat_idB (p : Bytes) (phy channel : Nat) :
    (idB p phy channel).toNat = 65536 * rdLE p phy 2 + rdLE p channel 2 := by
  rw [idB_eq_append, BitVec.toNat_append, ← Nat.shiftLeft_add_eq_or_of_lt (rd16 p channel).isLt, Nat.shiftLeft_eq,
    toNat_rd16, toNat_rd16, Nat.mul_comm]

/-- A signed field is the two's complement of its 16 bits: extending the sign keeps the value (R138). -/
theorem valSigned_eq_signed16 (p : Bytes) (o : Nat) : valSigned p o = signed16 (rdLE p o 2) := by
  rw [valSigned, BitVec.toInt_signExtend_of_le (by decide), BitVec.toInt_eq_toNat_cond, toNat_rd16, signed16]
  split <;> split <;> omega

theorem toNat_flagOf (q : U16) (bit : Fin 16) : (flagOf q bit).toNat = bitOf q.toNat bit := by
  rw [flagOf, BitVec.toNat_setWidth, BitVec.toNat_ushiftRight, Nat.shiftRight_eq_div_pow, bitOf, Nat.pow_one]

/-- A flag of the hidden qualifier, which the reading does not carry (R139). -/
theorem toNat_flagOf_rd16 (p : Bytes) (o : Nat) (bit : Fin 16) :
    (flagOf (rd16 p o) bit).toNat = bitOf (rdLE p o 2) bit := by
  rw [toNat_flagOf, toNat_rd16]

/-! ### The rows of the known types -/

theorem hasHead_schemeA (t : Fin 16) (p : Bytes) (id st : Nat) (body : Body) :
    hasHead (mkReading t (idA p id) (rd16 p st) body) t (family t) (rdLE p id 4) (rdLE p st 2) :=
  ⟨rfl, rfl, toNat_rd32 p id, toNat_rd16 p st⟩

theorem hasHead_schemeB (t : Fin 16) (p : Bytes) (phy channel st : Nat) (body : Body) :
    hasHead (mkReading t (idB p phy channel) (rd16 p st) body) t (family t)
      (65536 * rdLE p phy 2 + rdLE p channel 2) (rdLE p st 2) :=
  ⟨rfl, rfl, toNat_idB p phy channel, toNat_rd16 p st⟩

/-- A row that answers the outcome of type t answers as ruled once the reading of that type is as ruled (R133, R135). -/
theorem rowAnswers_of_readingOf {i : Instr} {s : State} {t : Fin 16} {f : InFrame} {asRuled : Reading → Prop}
    (hexec : exec i s = .next (s.answer [rowOutcome s.cfg t f]))
    (hread : asRuled (readingOf s.cfg t (inPayload (BitVec.ofNat 8 t.val) f))) :
    rowAnswers i s t (inPayload (BitVec.ofNat 8 t.val) f) asRuled := by
  refine ⟨fun hshort => ?_, fun hfits => ⟨_, hread, ?_⟩⟩
  · rw [hexec, rowOutcome, layoutOutcome, if_pos hshort]
    rfl
  · rw [hexec, rowOutcome_of_minLen_le hfits]
    rfl

end Sys2Proof.Machine

namespace Sys2Proof.Proofs

open Sys2Proof.Machine

/-- Settles O36. -/
theorem plainRowsRead : Obligations.PlainRowsRead := by
  intro s f
  refine ⟨?type0, ?type1, ?type15⟩
  case type0 => exact rowAnswers_of_readingOf (exec_decT0 f s) ⟨hasHead_schemeA 0 _ _ _ _, rfl⟩
  case type1 => exact rowAnswers_of_readingOf (exec_decT1 f s) ⟨hasHead_schemeA 1 _ _ _ _, rfl⟩
  case type15 => exact rowAnswers_of_readingOf (exec_decT15 f s) ⟨hasHead_schemeA 15 _ _ _ _, rfl⟩

/-- Settles O37. -/
theorem qualifierRowsRead : Obligations.QualifierRowsRead := by
  intro s f
  refine ⟨?type3, ?type12, ?type14⟩
  case type3 =>
    exact rowAnswers_of_readingOf (exec_decT3 f s) ⟨hasHead_schemeA 3 _ _ _ _, _, rfl, toNat_rd16 _ _⟩
  case type12 =>
    exact rowAnswers_of_readingOf (exec_decT12 f s) ⟨hasHead_schemeA 12 _ _ _ _, _, rfl, toNat_rd16 _ _⟩
  case type14 =>
    exact rowAnswers_of_readingOf (exec_decT14 f s) ⟨hasHead_schemeA 14 _ _ _ _, _, rfl, toNat_rd16 _ _⟩

/-- Settles O38. -/
theorem visonicRowReads : Obligations.VisonicRowReads := by
  intro s f
  exact rowAnswers_of_readingOf (exec_decT2 f s) ⟨hasHead_schemeA 2 _ _ _ _, _, _, _, _, _, rfl, toNat_rd16 _ _,
    toNat_flagOf _ _, toNat_flagOf _ _, toNat_flagOf _ _, toNat_flagOf _ _⟩

/-- Settles O39: each type's reading takes the offsets and the bits of its own tables. -/
theorem x2dRowsRead : Obligations.X2dRowsRead := by
  intro s f
  refine ⟨?type10, ?type11⟩
  case type10 =>
    exact rowAnswers_of_readingOf (exec_decT10 f s) ⟨hasHead_schemeA 10 _ _ _ _, _, _, _, _, _, _, rfl, toNat_rd16 _ _,
      toNat_flagOf _ _, toNat_flagOf _ _, toNat_flagOf _ _, toNat_flagOf _ _, toNat_flagOf _ _⟩
  case type11 =>
    exact rowAnswers_of_readingOf (exec_decT11 f s) ⟨hasHead_schemeA 11 _ _ _ _, _, _, _, _, _, _, rfl, toNat_rd16 _ _,
      toNat_flagOf _ _, toNat_flagOf _ _, toNat_flagOf _ _, toNat_flagOf _ _, toNat_flagOf _ _⟩

/-- Settles O40: the temperature alone is read as a signed field. -/
theorem oregonClimateRowsRead : Obligations.OregonClimateRowsRead := by
  intro s f
  simp only [← valSigned_eq_signed16]
  refine ⟨?type4, ?type5⟩
  case type4 =>
    exact rowAnswers_of_readingOf (exec_decT4 f s) ⟨hasHead_schemeB 4 _ _ _ _ _, _, _, rfl, toNat_rd16 _ _,
      toNat_flagOf_rd16 _ _ _⟩
  case type5 =>
    exact rowAnswers_of_readingOf (exec_decT5 f s) ⟨hasHead_schemeB 5 _ _ _ _ _, _, _, _, rfl, toNat_rd16 _ _,
      toNat_rd16 _ _, toNat_flagOf_rd16 _ _ _⟩

/-- Settles O41. -/
theorem oregonWeatherRowsRead : Obligations.OregonWeatherRowsRead := by
  intro s f
  refine ⟨?type6, ?type7, ?type9⟩
  case type6 =>
    exact rowAnswers_of_readingOf (exec_decT6 f s) ⟨hasHead_schemeB 6 _ _ _ _ _, _, _, _, rfl, toNat_rd16 _ _,
      toNat_rd16 _ _, toNat_flagOf_rd16 _ _ _⟩
  case type7 =>
    exact rowAnswers_of_readingOf (exec_decT7 f s) ⟨hasHead_schemeB 7 _ _ _ _ _, _, _, rfl, toNat_rd16 _ _,
      toNat_flagOf_rd16 _ _ _⟩
  case type9 =>
    exact rowAnswers_of_readingOf (exec_decT9 f s) ⟨hasHead_schemeB 9 _ _ _ _ _, _, _, _, rfl, toNat_rd16 _ _,
      toNat_rd16 _ _, toNat_flagOf_rd16 _ _ _⟩

/-- Settles O42. -/
theorem owlRowReads : Obligations.OwlRowReads := by
  intro s f
  exact rowAnswers_of_readingOf (exec_decT8 f s) ⟨hasHead_schemeB 8 _ _ _ _ _, _, _, _, _, _, _, rfl, toNat_rd16 _ _,
    toNat_rd16 _ _, toNat_rd16 _ _, toNat_rd16 _ _, toNat_rd16 _ _, toNat_flagOf_rd16 _ _ _⟩

/-- Settles O43: the two counters are the fields of 32 bits. -/
theorem meteringRowReads : Obligations.MeteringRowReads := by
  intro s f
  exact rowAnswers_of_readingOf (exec_decT13 f s) ⟨hasHead_schemeA 13 _ _ _ _, _, _, _, _, _, _, rfl, toNat_rd16 _ _,
    toNat_rd16 _ _, toNat_rd32 _ _, toNat_rd32 _ _, toNat_rd16 _ _, toNat_rd16 _ _⟩

end Sys2Proof.Proofs
end

section
/-! PROOFS. DECODE and the rows of the infoType byte (R130, R133, R134, R158), and the frames of the receive path (R131,
R281). -/

namespace Sys2Proof.Machine

/-! ### The row of an infoType byte, and DECODE of a frame with that byte -/

/-- The row of a known infoType answers the outcome of its type (R133). -/
theorem exec_selectInfoType_of_known (t : Fin 16) (f : InFrame) (s : State) :
    exec (selectInfoType (BitVec.ofNat 8 t.val) f) s = .next (s.answer [rowOutcome s.cfg t f]) := by
  fin_cases t <;> rfl

/-- The row of an unknown infoType holds that byte in its mask's match and free bits, and reports it (R74, R134). -/
theorem exec_selectInfoType_of_unknown {t : Byte} (h : 16 ≤ t.toNat) (f : InFrame) (s : State) :
    exec (selectInfoType t f) s = .next (s.answer [unknownOutcome t]) := by
  have hbyte := infoTypeOf_selectInfoType t f
  rw [selectInfoType_of_unknown h] at hbyte ⊢
  split_ifs at hbyte ⊢ <;>
    exact congrArg (fun u => Host.Outcome.next (s.answer [unknownOutcome u])) (Option.some.inj hbyte)

/-- A frame written with an infoType that fits its length field is a well-formed frame of the stream (R60, R61). -/
theorem frameOk_inFrameBytes (t : Byte) {f : InFrame} (h : f.fits = true) : frameOk (inFrameBytes t f) = true := by
  have hlen := length_inFrameBytes t f
  have hdecl := declaredLen_inFrameBytes t f h
  simp only [hdr] at hlen
  exact (frameOk_iff _).mpr ⟨by omega, rfl, rfl, by omega⟩

/-- DECODE of a written frame of an unknown type reports the type, whatever stands behind the byte (R134, R244). -/
theorem decodeFrame_inFrameBytes_of_unknown (cfg : Configuration) {t : Byte} (ht : 16 ≤ t.toNat) {f : InFrame}
    (h : f.fits = true) : decodeFrame cfg (inFrameBytes t f) = unknownOutcome t := by
  have hholds : rfPrefixLen ≤ declaredLen (inFrameBytes t f) := by
    rw [declaredLen_inFrameBytes t f h, length_inPayload]
    exact Nat.le_add_right _ _
  obtain ⟨hunknown, -⟩ := decodeFrame_of_frameOk cfg (frameOk_inFrameBytes t h) hholds
  rw [byteAt_infoType] at hunknown
  exact hunknown ht

/-! ### Readings -/

/-- A frame that gives a reading gives the one of the type of its byte 9 (R63, R130, R133). -/
theorem decodeFrame_eq_reading {cfg : Configuration} {frame : Bytes} {r : Reading}
    (h : decodeFrame cfg frame = .reading r) :
    ∃ t : Fin 16, t.val = (byteAt frame 9).toNat ∧ r = readingOf cfg t (payloadOf frame) := by
  have htype : byteAt (payloadOf frame) 4 = byteAt frame 9 := byteAt_drop frame 5 4
  unfold decodeFrame at h
  dsimp only at h
  split at h
  · cases h
  split at h
  · cases h
  split at h
  · cases h
  split at h
  · next ht =>
    refine ⟨⟨_, ht⟩, congrArg BitVec.toNat htype, ?_⟩
    rcases layoutOutcome_cases (minLenOf cfg ⟨_, ht⟩) (payloadOf frame) (readingOf cfg ⟨_, ht⟩ (payloadOf frame)) with
      ⟨-, e⟩ | ⟨-, e⟩ <;> rw [e] at h <;> cases h
    rfl
  · cases h

theorem readingOf_infoType (cfg : Configuration) (t : Fin 16) (p : Bytes) : (readingOf cfg t p).infoType = t := by
  fin_cases t <;> rfl

theorem readingOf_family (cfg : Configuration) (t : Fin 16) (p : Bytes) : (readingOf cfg t p).family = family t := by
  fin_cases t <;> rfl

theorem bodyTag_readingOf (cfg : Configuration) (t : Fin 16) (p : Bytes) :
    bodyTag (readingOf cfg t p).body = t.val := by
  fin_cases t <;> rfl

/-! ### The frames of the receive path -/

/-- What a PUSH can put out: well-formed frames, OVERFLOW and DESYNC (R101, R105, R243). -/
def isPushOutput (o : Output) : Prop :=
  (∃ f, o = .frame f ∧ frameOk f = true) ∨ (∃ n, o = .event (.overflow n)) ∨ ∃ n, o = .event (.desync n)

theorem isPushOutput_of_mem_scan {b : Bytes} {o : Output} (h : o ∈ (scan b).1) : isPushOutput o := by
  obtain ⟨cuts, tail, -, hcuts, hends⟩ := scan_partitions b
  have hframe : ∀ o ∈ cuts.map (fun c => Output.frame c.2), isPushOutput o := by
    intro o ho
    obtain ⟨c, hc, rfl⟩ := List.mem_map.mp ho
    obtain ⟨hok, -⟩ := hcuts c hc
    exact .inl ⟨c.2, rfl, hok⟩
  rcases hends with ⟨houts, -⟩ | ⟨houts, -⟩ <;> rw [houts] at h
  · exact hframe o h
  · rcases List.mem_append.mp h with h | h
    · exact hframe o h
    · exact .inr (.inr ⟨tail.length, List.mem_singleton.mp h⟩)

theorem isPushOutput_of_mem_pushInto {cfg : Configuration} {x : Reassembler} {batch : Bytes} {o : Output}
    (h : o ∈ (pushInto cfg x batch).2) : isPushOutput o := by
  rcases pushInto_cases cfg x batch with ⟨-, e⟩ | ⟨-, -, e⟩ | ⟨-, -, e⟩ <;> rw [e] at h
  · exact .inr (.inl ⟨_, List.mem_singleton.mp h⟩)
  · exact .inr (.inl ⟨_, List.mem_singleton.mp h⟩)
  · exact isPushOutput_of_mem_scan h

/-- The receive path answers what a PUSH put out, each frame decoded (R110). -/
theorem out_of_receive {k : Nat} {batch : Bytes} {s t : State} (h : receive k batch s = .next t) :
    t.out = (pushInto s.cfg (s.instanceAt k) batch).2.map (rxItem s.cfg) := by
  unfold receive at h
  split at h
  · next u hpush =>
    obtain ⟨-, rfl⟩ := execPush_eq_next.mp hpush
    cases h
    rfl
  · cases h
  · cases h

/-- DECODE of a well-formed frame of fewer than five payload bytes answers NO_PREFIX (R130). -/
theorem decodeFrame_of_frameOk_short (cfg : Configuration) {f : Bytes} (hf : frameOk f = true)
    (hshort : declaredLen f < rfPrefixLen) : decodeFrame cfg f = .event (.malformed .noPrefix) := by
  obtain ⟨hheader, h1, h2, hlen⟩ := (frameOk_iff f).mp hf
  have hgood : ¬ (f.length < hdr ∨ byteAt f 0 ≠ sync1 ∨ byteAt f 1 ≠ sync2) := by
    simp only [hdr, h1, h2]; simp [hheader]
  have hlength : ¬ f.length ≠ hdr + declaredLen f := not_not_intro hlen
  unfold decodeFrame
  rw [if_neg hgood, if_neg hlength]
  exact if_pos hshort

/-- A well-formed frame has no infoType byte, is of unknown type, too short for its layout, or read: its header and its
length are good (R131). -/
theorem decodeFrame_ne_bad_of_frameOk (cfg : Configuration) {f : Bytes} (hf : frameOk f = true) :
    decodeFrame cfg f ≠ .event (.malformed .badHeader) ∧ decodeFrame cfg f ≠ .event (.malformed .badLength) := by
  rcases Nat.lt_or_ge (declaredLen f) rfPrefixLen with hshort | hholds
  · simp [decodeFrame_of_frameOk_short cfg hf hshort]
  · obtain ⟨hunknown, hknown⟩ := decodeFrame_of_frameOk cfg hf hholds
    rcases Nat.lt_or_ge 15 (byteAt f 9).toNat with ht | ht
    · simp [hunknown ht]
    · rcases hknown ht with e | ⟨r, e⟩ <;> simp [e]

end Sys2Proof.Machine

namespace Sys2Proof.Proofs

open Sys2Proof.Machine

/-- Settles O35: a frame with an infoType is the one written with it, and both its row and DECODE answer the outcome of
its type; any other DECODE is the row DECODE itself. -/
theorem infoTypeRowsMeanDecode : Obligations.InfoTypeRowsMeanDecode := by
  intro s conn frame i h
  rcases decode_op_decode s.cfg conn frame with ⟨t, f, hd, e⟩ | ⟨-, e⟩ <;> rw [e] at h <;> cases h
  · obtain ⟨rfl, hfits⟩ := discriminant_eq_some hd
    rw [exec_decode]
    by_cases ht : t.toNat < 16
    · obtain ⟨n, rfl⟩ : ∃ n : Fin 16, t = BitVec.ofNat 8 n.val := ⟨⟨t.toNat, ht⟩, by simp⟩
      rw [exec_selectInfoType_of_known, decodeFrame_inFrameBytes s.cfg n hfits]
    · have hunknown : 16 ≤ t.toNat := Nat.le_of_not_lt ht
      rw [exec_selectInfoType_of_unknown hunknown, decodeFrame_inFrameBytes_of_unknown s.cfg hunknown hfits]
  · rfl

/-- Settles O44: each of the four rows puts its infoType together from a leading 1 and the bits its mask leaves free. -/
theorem unknownTypesAreReported : Obligations.UnknownTypesAreReported := by
  intro s f
  refine ⟨fun low => ?row10, fun low => ?row20, fun low => ?row40, fun low => ?row80, fun hfits t ht => ?decode⟩
  case row10 => rw [exec_decUnknown10, ← toNat_unknown10, BitVec.ofNat_toNat, BitVec.setWidth_eq]; rfl
  case row20 => rw [exec_decUnknown20, ← toNat_unknown20, BitVec.ofNat_toNat, BitVec.setWidth_eq]; rfl
  case row40 => rw [exec_decUnknown40, ← toNat_unknown40, BitVec.ofNat_toNat, BitVec.setWidth_eq]; rfl
  case row80 => rw [exec_decUnknown80, ← toNat_unknown80, BitVec.ofNat_toNat, BitVec.setWidth_eq]; rfl
  case decode =>
    rw [exec_decode, decodeFrame_inFrameBytes_of_unknown s.cfg ht hfits]
    rfl

/-- Settles O46: the reading is the one of the type of byte 9, and each type's reading is tagged with that type. -/
theorem readingsAreTaggedByType : Obligations.ReadingsAreTaggedByType := by
  intro cfg frame r h
  obtain ⟨t, ht, rfl⟩ := decodeFrame_eq_reading h
  rw [readingOf_infoType, bodyTag_readingOf, readingOf_family]
  refine ⟨ht, ht, ?_⟩
  fin_cases t <;> rfl

/-- Settles O27: the only frames that reach DECODE are those a PUSH cut out, and they are well formed. -/
theorem receivePathNeverMeetsBadFrames : Obligations.ReceivePathNeverMeetsBadFrames := by
  intro s t k batch h o ho
  rw [out_of_receive h] at ho
  obtain ⟨item, hitem, rfl⟩ := List.mem_map.mp ho
  rcases isPushOutput_of_mem_pushInto hitem with ⟨f, rfl, hf⟩ | ⟨n, rfl⟩ | ⟨n, rfl⟩
  · exact decodeFrame_ne_bad_of_frameOk s.cfg hf
  · simp [rxItem]
  · simp [rxItem]

end Sys2Proof.Proofs
end

section
/-! PROOFS. The decimal text of a number (R180) and of a temperature in tenths (R181). -/

namespace Sys2Proof.Machine

/-! ### Decimal forms -/

/-- These characters are the decimal form of n: digits of its value with no leading zero (R180). -/
def isDecimalOf (cs : List Char) (n : Nat) : Prop :=
  digits cs ∧ decimalValue cs = n ∧ (cs.head? = some '0' → cs = ['0'])

theorem toNat_digitChar : ∀ d < 10, (digitChar d).toNat = 48 + d := by decide

/-- One more digit multiplies the value by ten and adds the digit. -/
theorem decimalValue_snoc (cs : List Char) (c : Char) :
    decimalValue (cs ++ [c]) = 10 * decimalValue cs + (c.toNat - 48) := by
  induction cs with
  | nil => simp [decimalValue]
  | cons a cs ih =>
    simp only [List.cons_append, decimalValue, ih, List.length_append, List.length_singleton]
    ring

theorem isDecimalOf_digit {d : Nat} (hd : d < 10) : isDecimalOf [digitChar d] d := by
  have hc := toNat_digitChar d hd
  refine ⟨⟨List.cons_ne_nil _ _, fun c h => ?_⟩, ?_, fun h => ?_⟩
  · rw [List.mem_singleton.mp h]; omega
  · simp [decimalValue, hc]
  · rw [Option.some.inj h]

/-- Behind the form of a positive number a digit makes a decimal form, since the first digit stays and is not 0. -/
theorem isDecimalOf_snoc {cs : List Char} {n d : Nat} (h : isDecimalOf cs n) (hn : 0 < n) (hd : d < 10) :
    isDecimalOf (cs ++ [digitChar d]) (10 * n + d) := by
  obtain ⟨⟨hne, hdigits⟩, hvalue, hlead⟩ := h
  have hc := toNat_digitChar d hd
  refine ⟨⟨by simp, fun c hmem => ?_⟩, ?_, fun hzero => ?_⟩
  · rcases List.mem_append.mp hmem with hmem | hmem
    · exact hdigits c hmem
    · rw [List.mem_singleton.mp hmem]; omega
  · rw [decimalValue_snoc, hvalue, hc, Nat.add_sub_cancel_left]
  · rw [List.head?_append_of_ne_nil _ hne] at hzero
    rw [hlead hzero] at hvalue
    exact absurd hvalue (by simpa [decimalValue] using hn.ne)

/-- More fuel than the number is enough: each division by ten makes the number smaller. -/
theorem isDecimalOf_decDigits (fuel : Nat) : ∀ n < fuel, isDecimalOf (decDigits fuel n) n := by
  induction fuel with
  | zero => exact fun n h => absurd h (Nat.not_lt_zero n)
  | succ fuel ih =>
    intro n hn
    rw [decDigits]
    split
    · next hsmall => exact isDecimalOf_digit hsmall
    · have hform := isDecimalOf_snoc (ih (n / 10) (by omega)) (by omega) (Nat.mod_lt n (by decide))
      rwa [Nat.div_add_mod] at hform

theorem isDecimalOf_dec (n : Nat) : isDecimalOf (dec n).toList n := by
  rw [dec, String.toList_ofList]
  exact isDecimalOf_decDigits (n + 1) n n.lt_succ_self

theorem toList_dec_of_lt_ten {n : Nat} (h : n < 10) : (dec n).toList = [digitChar n] := by
  rw [dec, String.toList_ofList, decDigits, if_pos h]

end Sys2Proof.Machine

namespace Sys2Proof.Proofs

open Sys2Proof.Machine

/-- Settles O58. -/
theorem referenceIsDecimal : Obligations.ReferenceIsDecimal := by
  refine ⟨isDecimalOf_dec, fun r => ?_⟩
  simp [reference]

/-- Settles O59: the tenth is the decimal form of a number below ten, which is one digit. -/
theorem temperatureHasOneDecimal : Obligations.TemperatureHasOneDecimal := by
  intro v
  have htenth : v.natAbs % 10 < 10 := Nat.mod_lt _ (by decide)
  obtain ⟨hwhole, hwholeValue, hlead⟩ := isDecimalOf_dec (v.natAbs / 10)
  obtain ⟨hdigit, hdigitValue, -⟩ := isDecimalOf_digit htenth
  refine ⟨_, _, ?_, hwhole, hwholeValue, hlead, hdigit, hdigitValue⟩
  simp only [tempText, String.toList_append, toList_dec_of_lt_ten htenth]
  split <;> simp

end Sys2Proof.Proofs
end

section
/-! PROOFS. The encoder's values: protocol codes (R202, R205), the dim byte (R206 to R208) and the device id (R209 to
R212), and the output list that ENCODE and the rows of its actions answer with (R201, R213, R215 to R219). -/

namespace Sys2Proof.Machine

/-! ### Protocol codes -/

/-- A name of every binding has its code, whatever the binding adds (R205; log 21). -/
theorem protoCode_of_fixed (cfg : Configuration) {n : String} {code : Byte} (h : fixedProtoCodes.lookup n = some code) :
    protoCode cfg (some n) = code :=
  protoCode_of_lookup (by simp [protoLookup, List.lookup_append, h])

/-- A name outside the six has what the binding adds for it (R205). -/
theorem protoCode_of_not_fixed (cfg : Configuration) {n : String} (h : n ∉ fixedProtoCodes.map Prod.fst) :
    protoCode cfg (some n) = (cfg.protoExtra.lookup n).getD 0 := by
  have hnone : fixedProtoCodes.lookup n = none :=
    List.lookup_eq_none_iff.mpr fun e he => bne_iff_ne.mpr fun hn => h (hn ▸ List.mem_map_of_mem he)
  simp [protoCode, protoLookup, List.lookup_append, hnone]

/-! ### The dim byte -/

theorem dimByte_rts (cfg : Configuration) (tok : String) (d : Option Byte) :
    dimByte cfg 11 tok d = if tok = "2" then 4 else 0 := rfl

/-- The HA rule (R207). -/
theorem dimByte_ha {cfg : Configuration} {pc : Byte} (hpc : pc ≠ 11) (hha : cfg.haProto = some pc) (t : HaToken)
    (d : Option Byte) : dimByte cfg pc (haName t) d = haDimOf cfg.haDim t := by
  have htoken : haToken (haName t) = some t := (haToken_eq_some _ t).mpr rfl
  have hrts : pc ≠ rtsCode := hpc
  simp only [dimByte, if_neg hrts, if_pos hha, htoken]

theorem mem_haTokenNames_iff (tok : String) : tok ∈ haTokens.map haName ↔ ∃ t, tok = haName t := by
  simp only [List.mem_map, mem_haTokens, true_and, eq_comm]

/-- The plain rule, where neither the RTS rule nor the HA rule applies (R208). -/
theorem dimByte_plain {cfg : Configuration} {pc : Byte} (hpc : pc ≠ 11) {tok : String}
    (h : cfg.haProto ≠ some pc ∨ tok ∉ haTokens.map haName) (d : Option Byte) : dimByte cfg pc tok d = d.getD 0 := by
  have hrts : pc ≠ rtsCode := hpc
  rw [dimByte, if_neg hrts]
  by_cases hha : cfg.haProto = some pc
  · have hnot : tok ∉ haTokens.map haName := h.resolve_left (not_not_intro hha)
    have hnone : haToken tok = none := Option.eq_none_iff_forall_ne_some.mpr fun t ht =>
      hnot ((mem_haTokenNames_iff tok).mpr ⟨t, (haToken_eq_some tok t).mp ht⟩)
    rw [if_pos hha, hnone]
  · rw [if_neg hha]

/-- Under a legal configuration HA_DIM holds only the dim codes of R29. -/
theorem haDimOf_mem_of_legal {cfg : Configuration} (hlegal : cfg.legal = true) (t : HaToken) :
    haDimOf cfg.haDim t ∈ haDimCodes := by
  simp only [Configuration.legal, Bool.and_eq_true] at hlegal
  obtain ⟨⟨⟨-, hdim⟩, -⟩, -⟩ := hlegal
  have hmem : haDimOf cfg.haDim t ∈ haTokens.map (haDimOf cfg.haDim) := List.mem_map_of_mem (mem_haTokens t)
  exact List.contains_iff_mem.mp (List.all_eq_true.mp hdim _ hmem)

theorem toNat_mem_of_mem_haDimCodes {v : Byte} (h : v ∈ haDimCodes) : v.toNat ∈ [0, 3, 4, 5, 7] :=
  List.mem_map_of_mem (f := BitVec.toNat) h

/-! ### The device id -/

theorem isDigit_iff (c : Char) : isDigit c = true ↔ 48 ≤ c.toNat ∧ c.toNat ≤ 57 := by
  simp [isDigit]

theorem isLetter_iff (c : Char) : isLetter c = true ↔ 65 ≤ c.toNat ∧ c.toNat ≤ 90 := by
  simp [isLetter]

/-- The value that is computed digit by digit is the value by places. -/
theorem decimal_of_digits {cs : List Char} (h : digits cs) : decimal cs = some (decimalValue cs) := by
  induction cs using List.reverseRecOn with
  | nil => exact absurd rfl h.1
  | append_singleton cs c ih =>
    obtain ⟨-, hdigits⟩ := h
    have hc : isDigit c = true := (isDigit_iff c).mpr (hdigits c (by simp))
    by_cases hcs : cs = []
    · subst hcs
      simp [decimal_digit hc, decimalValue]
    · have hfront := ih ⟨hcs, fun d hd => hdigits d (List.mem_append_left _ hd)⟩
      rw [decimal_snoc hfront hc, decimalValue_snoc]

theorem decimal_eq_some_iff (cs : List Char) (n : Nat) : decimal cs = some n ↔ digits cs ∧ decimalValue cs = n := by
  constructor
  · intro h
    have hdigits : digits cs := by
      simpa only [isDigit_iff] using (decimal_isSome cs).mp (Option.isSome_of_eq_some h)
    exact ⟨hdigits, Option.some.inj ((decimal_of_digits hdigits).symm.trans h)⟩
  · rintro ⟨hdigits, rfl⟩
    exact decimal_of_digits hdigits

theorem not_digits_of_decimal {cs : List Char} (h : decimal cs = none) : ¬ digits cs := fun hdigits =>
  Option.some_ne_none _ ((decimal_of_digits hdigits).symm.trans h)

theorem ofNat_eq_iff_toNat (k : Nat) (v : U32) : BitVec.ofNat 32 k = v ↔ v.toNat = k % 2 ^ 32 := by
  rw [← BitVec.toNat_inj, BitVec.toNat_ofNat, eq_comm]

/-- A code that begins with a letter resolves by the letter form alone (R209, R210). -/
theorem deviceIdOf_letter {l : Char} (hl : isLetter l = true) (ds : List Char) (v : U32) :
    deviceIdOf (l :: ds) = some v ↔
      digits ds ∧ 1 ≤ decimalValue ds ∧ v.toNat = ((l.toNat - 65) * 16 + decimalValue ds - 1) % 2 ^ 32 := by
  rw [deviceIdOf, if_pos hl, ← ofNat_eq_iff_toNat]
  cases h : decimal ds with
  | none =>
    simp only [not_digits_of_decimal h, false_and, reduceCtorEq]
  | some n =>
    obtain ⟨hdigits, rfl⟩ := (decimal_eq_some_iff ds n).mp h
    rw [and_iff_right hdigits]
    simp [letterId]

/-- A code that begins with another character resolves by the raw form alone (R209, R211). -/
theorem deviceIdOf_raw {l : Char} (hl : isLetter l ≠ true) (ds : List Char) (v : U32) :
    deviceIdOf (l :: ds) = some v ↔
      digits (l :: ds) ∧ decimalValue (l :: ds) ≤ 4294967295 ∧ v.toNat = decimalValue (l :: ds) := by
  rw [deviceIdOf, if_neg hl]
  cases h : decimal (l :: ds) with
  | none =>
    simp only [not_digits_of_decimal h, false_and, reduceCtorEq]
  | some n =>
    obtain ⟨hdigits, rfl⟩ := (decimal_eq_some_iff _ n).mp h
    simp only [and_iff_right hdigits, Option.ite_none_right_eq_some, Option.some.injEq]
    refine and_congr_right fun hfits => ?_
    rw [ofNat_eq_iff_toNat, Nat.mod_eq_of_lt (by omega)]

/-- A letter is no digit, so the two forms of R209 exclude each other. -/
theorem not_digits_of_letter {l : Char} (hl : isLetter l = true) (ds : List Char) : ¬ digits (l :: ds) := by
  rintro ⟨-, hdigits⟩
  have hletter := (isLetter_iff l).mp hl
  have hdigit := hdigits l List.mem_cons_self
  omega

/-! ### The output list of ENCODE -/

/-- The row of a command's action answers as ENCODE does, since ENCODE resolves the same action (R216 to R219; log 7). -/
theorem exec_actionRow {s : State} {c : Command} {a : Option Action} (h : commandAction s.cfg c = a) :
    exec (actionRow c a) s = exec (.encode c) s := by
  cases a with
  | none => rfl
  | some a =>
    rw [exec_encode, encodeCommand, h]
    cases a <;> rfl

theorem unresolved_eq (pc : Byte) (ac : Option Byte) (id : Option U32) :
    unresolved pc ac id = (if pc = 0 then [.encUnresProto] else []) ++ (if ac = none then [.encUnresAction] else []) ++
      (if id = none then [.encUnresId] else []) := by
  simp only [unresolved, Option.isNone_iff_eq_none]

/-- The unresolved events, and one item behind them (R213, R215). -/
theorem encodeOutputs_eq (strict : Bool) (pc : Byte) (ac : Option Byte) (id : Option U32) (dv : Byte) :
    encodeOutputs strict pc ac id dv = (unresolved pc ac id).map .event ++
      [if strict = true ∧ unresolved pc ac id ≠ [] then .event .encRejected
       else .frame (assemble pc (ac.getD 0) (id.getD 0) dv)] := by
  rcases encodeOutputs_cases strict pc ac id dv with ⟨hstrict, hne, e⟩ | ⟨hok, e⟩
  · rw [e, if_pos ⟨hstrict, hne⟩]
  · rw [e, if_neg fun ⟨hstrict, hne⟩ => hok.elim (by simp [hstrict]) hne]

end Sys2Proof.Machine

namespace Sys2Proof.Proofs

open Sys2Proof.Machine

/-- Settles O49: the three rules exclude each other, and the HA rule is one equation over the eight tokens. -/
theorem dimByteFollowsTheFirstRule : Obligations.DimByteFollowsTheFirstRule := by
  intro cfg pc tok d
  refine ⟨?_, fun hpc hha => ?_, fun hpc h => dimByte_plain hpc h d⟩
  · rintro rfl
    exact dimByte_rts cfg tok d
  · have hdim : ∀ t, tok = haName t → dimByte cfg pc tok d = haDimOf cfg.haDim t := by
      rintro t rfl
      exact dimByte_ha hpc hha t d
    refine ⟨hdim .autoLow, hdim .ecoLow, hdim .confortLow, hdim .auto, hdim .eco, hdim .confort, hdim .stop,
      hdim .horsGel, fun hlegal hmem => ?_⟩
    obtain ⟨t, ht⟩ := (mem_haTokenNames_iff tok).mp hmem
    rw [hdim t ht]
    exact toNat_mem_of_mem_haDimCodes (haDimOf_mem_of_legal hlegal t)

/-- Settles O50, by the first character of the code: none, a letter, or another one. -/
theorem deviceIdCodesResolve : Obligations.DeviceIdCodesResolve := by
  refine ⟨rfl, fun code v => ?_⟩
  rw [deviceId]
  cases code.toList with
  | nil => simp [deviceIdOf]
  | cons l ds =>
    by_cases hl : isLetter l = true
    · obtain ⟨hlow, hhigh⟩ := (isLetter_iff l).mp hl
      rw [deviceIdOf_letter hl]
      constructor
      · exact fun h => .inl ⟨l, ds, rfl, hlow, hhigh, h⟩
      · rintro (⟨l', ds', hcons, -, -, h⟩ | ⟨hdigits, -⟩)
        · cases hcons
          exact h
        · exact absurd hdigits (not_digits_of_letter hl ds)
    · rw [deviceIdOf_raw hl]
      constructor
      · exact .inr
      · rintro (⟨l', ds', hcons, hlow, hhigh, -⟩ | h)
        · cases hcons
          exact absurd ((isLetter_iff l).mpr ⟨hlow, hhigh⟩) hl
        · exact h

/-- Settles O54: the request decodes to the row of the command's action. -/
theorem actionRowsMeanEncode : Obligations.ActionRowsMeanEncode := by
  intro s conn c i h
  rw [decode_encode_command conn rfl] at h
  cases h
  exact exec_actionRow rfl

/-- Settles O47: the fixed entries are looked up first. -/
theorem protocolNamesHaveTheirCodes : Obligations.ProtocolNamesHaveTheirCodes := by
  intro cfg
  exact ⟨rfl, protoCode_of_fixed cfg rfl, protoCode_of_fixed cfg rfl, protoCode_of_fixed cfg rfl,
    protoCode_of_fixed cfg rfl, protoCode_of_fixed cfg rfl, protoCode_of_fixed cfg rfl,
    fun _ hn => protoCode_of_not_fixed cfg hn⟩

/-- Settles O52: ENCODE answers with the output list of its resolved values. -/
theorem encodeAnswers : Obligations.EncodeAnswers := by
  intro s c
  dsimp only
  rw [exec_encode, encodeCommand, encodeWith, encodeOutputs_eq, unresolved_eq]
  rfl

end Sys2Proof.Proofs
end

section
/-! PROOFS. The order of what is reported: DECODE's checks (R130, R251) and ENCODE's output list (R247, R252); and the idle
step (R260). -/

namespace Sys2Proof.Machine

/-! ### DECODE by the first check that fails -/

/-- A sequence with a bad header is reported whatever else is wrong with it (R130). -/
theorem decodeFrame_of_badHeader (cfg : Configuration) {f : Bytes}
    (h : f.length < 5 ∨ byteAt f 0 ≠ 0x5A ∨ byteAt f 1 ≠ 0x49) : decodeFrame cfg f = .event (.malformed .badHeader) :=
  if_pos h

/-- Behind a good header, a wrong length is reported first (R130). -/
theorem decodeFrame_of_badLength (cfg : Configuration) {f : Bytes}
    (h : ¬(f.length < 5 ∨ byteAt f 0 ≠ 0x5A ∨ byteAt f 1 ≠ 0x49)) (hlen : f.length ≠ 5 + declaredLen f) :
    decodeFrame cfg f = .event (.malformed .badLength) :=
  (if_neg h).trans (if_pos hlen)

/-- What passes the checks of the header and of the length is a well-formed frame, and no other sequence (R130, R112). -/
theorem frameOk_iff_goodHeader (f : Bytes) : frameOk f = true ↔
    ¬(f.length < 5 ∨ byteAt f 0 ≠ 0x5A ∨ byteAt f 1 ≠ 0x49) ∧ f.length = 5 + declaredLen f := by
  rw [frameOk_iff, sync1, sync2]
  push Not
  rw [and_assoc, and_assoc]

/-- The payload of a well-formed frame is as long as the frame declares (R60). -/
theorem length_payloadOf_of_frameOk {f : Bytes} (hf : frameOk f = true) : (payloadOf f).length = declaredLen f := by
  obtain ⟨-, -, -, hlen⟩ := (frameOk_iff f).mp hf
  rw [payloadOf, List.length_drop, hlen, hdr, Nat.add_sub_cancel_left]

/-- DECODE of a well-formed frame of a known type answers the outcome of the layout of that type (R133, R135). -/
theorem decodeFrame_of_frameOk_known (cfg : Configuration) {f : Bytes} (hf : frameOk f = true)
    (hholds : rfPrefixLen ≤ declaredLen f) (ht : (byteAt f 9).toNat < 16) :
    decodeFrame cfg f =
      layoutOutcome (minLenOf cfg ⟨_, ht⟩) (payloadOf f) (readingOf cfg ⟨_, ht⟩ (payloadOf f)) := by
  obtain ⟨hgood, hlen⟩ := (frameOk_iff_goodHeader f).mp hf
  have htype : byteAt (payloadOf f) 4 = byteAt f 9 := byteAt_drop f 5 4
  have hlength : ¬ f.length ≠ hdr + declaredLen f := not_not_intro hlen
  refine (if_neg hgood).trans ((if_neg hlength).trans ?_)
  simp only [if_neg (Nat.not_lt.mpr hholds), htype, dif_pos ht]

/-! ### The order of ENCODE's output list -/

/-- The unresolved events are among the three of R213, in code order. -/
theorem unresolved_sublist (pc : Byte) (ac : Option Byte) (id : Option U32) :
    (unresolved pc ac id).Sublist [.encUnresProto, .encUnresAction, .encUnresId] := by
  have optional (p : Prop) [Decidable p] (e : Event) : (if p then [e] else []).Sublist [e] := by split <;> simp
  exact ((optional (pc = 0) .encUnresProto).append (optional ac.isNone .encUnresAction)).append
    (optional id.isNone .encUnresId)

theorem unresolved_ne_nil_iff (pc : Byte) (ac : Option Byte) (id : Option U32) :
    unresolved pc ac id ≠ [] ↔ .encUnresProto ∈ unresolved pc ac id ∨ .encUnresAction ∈ unresolved pc ac id ∨
      .encUnresId ∈ unresolved pc ac id := by
  constructor
  · intro h
    obtain ⟨e, he⟩ := List.exists_mem_of_ne_nil _ h
    have hthree := (unresolved_sublist pc ac id).subset he
    simp only [List.mem_cons, List.not_mem_nil, or_false] at hthree
    rcases hthree with rfl | rfl | rfl
    · exact .inl he
    · exact .inr (.inl he)
    · exact .inr (.inr he)
  · rintro (h | h | h) <;> exact List.ne_nil_of_mem h

theorem eventCodes_append (xs ys : List Output) : eventCodes (xs ++ ys) = eventCodes xs ++ eventCodes ys :=
  List.filterMap_append

/-- ENCODE's events have codes among 0x20 to 0x23, in that order (R246, R252). -/
theorem eventCodes_encodeOutputs_sublist (strict : Bool) (pc : Byte) (ac : Option Byte) (id : Option U32) (dv : Byte) :
    (eventCodes (encodeOutputs strict pc ac id dv)).Sublist [0x20, 0x21, 0x22, 0x23] := by
  have hunres : (eventCodes ((unresolved pc ac id).map .event)).Sublist [0x20, 0x21, 0x22] :=
    ((unresolved_sublist pc ac id).map Output.event).filterMap _
  rcases encodeOutputs_cases strict pc ac id dv with ⟨-, -, e⟩ | ⟨-, e⟩ <;> rw [e, eventCodes_append]
  · exact hunres.append (.refl [0x23])
  · exact hunres.append (List.nil_sublist [0x23])

/-- The place of a frame behind a list of events is the last one. -/
theorem eq_length_of_frame_after_events {es : List Event} {o : Output} {n : Nat} {f : Bytes}
    (h : (es.map Output.event ++ [o])[n]? = some (.frame f)) : n = es.length := by
  rcases Nat.lt_trichotomy n es.length with hlt | heq | hgt
  · rw [List.getElem?_append_left (by simpa using hlt)] at h
    simp [hlt] at h
  · exact heq
  · rw [List.getElem?_eq_none (by simpa using hgt)] at h
    cases h

/-- Which events are among ENCODE's outputs (R213, R215). -/
theorem event_mem_encodeOutputs_iff (strict : Bool) (pc : Byte) (ac : Option Byte) (id : Option U32) (dv : Byte)
    (e : Event) :
    .event e ∈ encodeOutputs strict pc ac id dv ↔
      e ∈ unresolved pc ac id ∨ e = .encRejected ∧ strict = true ∧ unresolved pc ac id ≠ [] := by
  rcases encodeOutputs_cases strict pc ac id dv with ⟨hstrict, hne, hout⟩ | ⟨hok, hout⟩ <;> rw [hout]
  · simp [hstrict, hne]
  · have hnot : ¬(strict = true ∧ unresolved pc ac id ≠ []) := fun ⟨hstrict, hne⟩ =>
      hok.elim (by simp [hstrict]) hne
    simp [hnot]

/-- ENCODE rejects just when STRICT is set and an unresolved event is raised (R215, R247). -/
theorem encRejected_mem_encodeOutputs_iff (strict : Bool) (pc : Byte) (ac : Option Byte) (id : Option U32) (dv : Byte) :
    .event .encRejected ∈ encodeOutputs strict pc ac id dv ↔ strict = true ∧
      (.event .encUnresProto ∈ encodeOutputs strict pc ac id dv ∨
        .event .encUnresAction ∈ encodeOutputs strict pc ac id dv ∨
        .event .encUnresId ∈ encodeOutputs strict pc ac id dv) := by
  have hnone : .encRejected ∉ unresolved pc ac id := by simp [mem_unresolved]
  simp only [event_mem_encodeOutputs_iff, hnone, reduceCtorEq, false_and, or_false, false_or, true_and,
    unresolved_ne_nil_iff]

end Sys2Proof.Machine

namespace Sys2Proof.Proofs

open Sys2Proof.Machine

/-- Settles O2: there is no request to take. -/
theorem idleStepKeepsState : Obligations.IdleStepKeepsState := by
  intro s h
  rw [step, fetch_nil h]

/-- Settles O34, check by check: a sequence that passes the first two is a well-formed frame, whose payload is as long as
its length field says. -/
theorem decodeReportsTheFirstDefect : Obligations.DecodeReportsTheFirstDefect := by
  intro s frame
  dsimp only
  rw [exec_decode]
  refine congrArg (fun o => Host.Outcome.next (s.answer [o])) ?_
  split
  next hbad => exact decodeFrame_of_badHeader s.cfg hbad
  next hgood =>
    split
    next hlen => exact decodeFrame_of_badLength s.cfg hgood hlen
    next hlen =>
      have hf := (frameOk_iff_goodHeader frame).mpr ⟨hgood, not_not.mp hlen⟩
      split
      next hshort => exact decodeFrame_of_frameOk_short s.cfg hf hshort
      next hholds =>
        have hknown : rfPrefixLen ≤ declaredLen frame := Nat.not_lt.mp hholds
        split
        next ht =>
          rw [decodeFrame_of_frameOk_known s.cfg hf hknown ht, layoutOutcome, length_payloadOf_of_frameOk hf]
          rfl
        next ht => exact (decodeFrame_of_frameOk s.cfg hf hknown).1 (by omega)

/-- Settles O53: ENCODE's outputs are its unresolved events and one item behind them, ENC_REJECTED or the frame. -/
theorem encodeEventsStandInCodeOrder : Obligations.EncodeEventsStandInCodeOrder := by
  intro s t c h
  rw [exec_encode, encodeCommand, encodeWith] at h
  cases h
  refine ⟨?_, fun n f hframe => ?_, encRejected_mem_encodeOutputs_iff _ _ _ _ _⟩
  · exact List.Pairwise.sublist (eventCodes_encodeOutputs_sublist _ _ _ _ _) (by decide)
  · rw [answer_out, encodeOutputs_eq] at hframe ⊢
    simp [eq_length_of_frame_after_events hframe]

end Sys2Proof.Proofs
end

section
/-! PROOFS. RESET and the opening of a connection (R103, R270, R271): one rule per part of the state that opening a
connection leaves, and RESET as that opening answered with no output. -/

namespace Sys2Proof.Machine

/-! ### What opening a connection leaves -/

@[simp] theorem openConnection_cfg (s : State) (k : Nat) : (s.openConnection k).cfg = s.cfg :=
  setInstance_cfg s k Reassembler.fresh

@[simp] theorem openConnection_requests (s : State) (k : Nat) : (s.openConnection k).requests = s.requests :=
  setInstance_requests s k Reassembler.fresh

@[simp] theorem openConnection_instanceAt_same (s : State) (k : Nat) :
    (s.openConnection k).instanceAt k = Reassembler.fresh :=
  setInstance_instanceAt_same s k Reassembler.fresh

theorem openConnection_instanceAt_other (s : State) {k j : Nat} (h : j ≠ k) :
    (s.openConnection k).instanceAt j = s.instanceAt j :=
  setInstance_instanceAt_other s Reassembler.fresh h

/-! ### RESET as an opening -/

/-- RESET opens its connection again and answers nothing (R271). -/
theorem exec_reset_eq_openConnection (k : Nat) (s : State) :
    exec (.reset k) s = .next ((s.openConnection k).answer []) :=
  exec_reset k s

end Sys2Proof.Machine

namespace Sys2Proof.Proofs

open Sys2Proof.Machine

/-- Settles O11: the opened connection's instance is fresh, and RESET is the opening answered with no output. -/
theorem openedConnectionIsReset : Obligations.OpenedConnectionIsReset := by
  intro s k
  have hfresh : (s.openConnection k).instanceAt k = Reassembler.fresh := openConnection_instanceAt_same s k
  rw [hfresh]
  exact ⟨fresh_buffer, fresh_fault, exec_reset_eq_openConnection k s⟩

/-- Settles O19: the state RESET answers is the opened one, whose other instances and tables are the old ones. -/
theorem resetClearsItsInstance : Obligations.ResetClearsItsInstance := by
  intro s k
  refine ⟨_, exec_reset_eq_openConnection k s, ?_⟩
  have hfresh : ((s.openConnection k).answer []).instanceAt k = Reassembler.fresh := by simp
  rw [hfresh]
  exact ⟨fresh_buffer, fresh_fault, answer_out _ _, openConnection_cfg s k, openConnection_requests s k,
    fun _ hj => openConnection_instanceAt_other s hj⟩

end Sys2Proof.Proofs
end
